-- ==== Sys2Proof/Word.lean ====
section
/-! DEFINITION. The word of the or_bus CORE: the byte (R18: "a byte or u8 is an unsigned integer 0..255").
Every field on the wire and every u8 register is one byte; all other quantities are naturals (R18). -/

namespace Sys2Proof

/-- A byte, `u8` of R18; bit 7 is the most significant bit. -/
abbrev Byte := BitVec 8

end Sys2Proof
end

