-- ==== Sys2Proof/Config.lean ====
section
/-! DEFINITION. What an instance fixes (the parameters of 00_scope.md, R6 to R15), the names the environment uses
(handlers, contexts, a handler's answer), and the one free value: what a handler answers when the state queues no answer. -/

namespace Sys2Proof

/-- `DISPATCH_MODE` (R15): whether the completion callback dispatches inside DECODE_BYTE or posts `pkt_ready`. -/
inductive DispatchMode
  | inline
  | deferred
deriving DecidableEq, Repr, Inhabited

/-- `HDR_SIZE` (R7): the reserved physical header, the header byte and the length byte. -/
def hdrSize : Nat := 2

/-- `SF_HDR` (R8): the sub-frame header, length, type, hash and command. -/
def sfHdr : Nat := 4

/-- `HASH_ALIVE` (R13): the hash reserved for keep-alive. -/
def hashAlive : Byte := 0

/-- The parameters of R6 and R9 to R15 as raw values; `Config` pairs them with the proof of their ranges. -/
structure Params where
  /-- `HEADER` (R6). -/
  header : Byte
  /-- `RX_CAP` (R9), the number of bytes of the receive buffer. -/
  rxCapacity : Nat
  /-- `TX_LIMIT` (R10), the largest value the transmit cursor may take. -/
  txLimit : Nat
  /-- `TABLE_SLOTS` (R11). -/
  tableSlots : Nat
  /-- `TYPE_DATA` (R12). -/
  typeData : Byte
  /-- `TYPE_ACK` (R12). -/
  typeAck : Byte
  /-- `TYPE_NACK` (R12). -/
  typeNack : Byte
  /-- `TYPE_REQUEST` (R12). -/
  typeRequest : Byte
  /-- `TYPE_EMPTY` (R12); no operation reads it. -/
  typeEmpty : Byte
  /-- `DISPATCH_MODE` (R15). -/
  dispatchMode : DispatchMode
deriving DecidableEq, Repr

/-- The ranges of R9, R10, R11 and the distinctness of R12. -/
def Params.inRange (p : Params) : Bool :=
  decide (1 ≤ p.rxCapacity) && decide (p.rxCapacity ≤ 255) &&
  decide (hdrSize + sfHdr ≤ p.txLimit) && decide (p.txLimit ≤ hdrSize + 255) &&
  decide (1 ≤ p.tableSlots) &&
  decide ([p.typeData, p.typeAck, p.typeNack, p.typeRequest, p.typeEmpty].Pairwise (· ≠ ·))

/-- The configuration of one link instance. It carries the range proof, so a configuration outside the ranges
cannot be written down (93_implementation_defined.md U13: refused at configuration time). -/
structure Config extends Params where
  /-- The parameters are in the ranges of R9 to R12. -/
  ok : toParams.inRange = true
deriving DecidableEq, Repr

/-- The configuration of the test vectors (92_eei_decisions.md, last section). `TYPE_EMPTY` has no default there;
0x45 is the model's (DESIGN CHOICE, log entry 2). -/
def Config.default : Config :=
  { header := 0x23, rxCapacity := 32, txLimit := 34, tableSlots := 5,
    typeData := 0x44, typeAck := 0x4B, typeNack := 0x4E, typeRequest := 0x52, typeEmpty := 0x45,
    dispatchMode := .inline, ok := by decide }

/-- `TX_BUF_SIZE = TX_LIMIT + 1` (R10): the extra byte holds the trailing checksum. -/
def Config.txBufSize (c : Config) : Nat := c.txLimit + 1

/-- A `Handler` value names one external callback (R14). The opaque name is a natural (DESIGN CHOICE, log entry 3);
it has no null value. -/
structure Handler where
  id : Nat
deriving DecidableEq, Repr, Inhabited

/-- A `Context` value: opaque data stored at registration and handed back unchanged at every call (R14). -/
structure Context where
  id : Nat
deriving DecidableEq, Repr, Inhabited

/-- The arguments of one handler call (R106, R108); the payload is passed by value. -/
structure HandlerCall where
  handler : Handler
  context : Context
  type : Byte
  command : Byte
  payload : List Byte
deriving DecidableEq, Repr

/-- What a handler may issue during its call (R108, R158): ADD_DATA and ADD_REQUEST, nothing else. For ADD_DATA the
length operand is the length of the payload (93_implementation_defined.md U12), also above 255 (DESIGN CHOICE, log entry 4). -/
inductive AddOp
  | data (hash command : Byte) (payload : List Byte)
  | request (type hash command : Byte)
deriving DecidableEq, Repr

/-- A handler's behaviour during one call (R108): a finite sequence of ADD operations, each next one chosen from the
boolean result of the one before. Forbidden actions cannot be written (93_implementation_defined.md U2). -/
inductive Script
  | ret
  | add (op : AddOp) (ifTrue ifFalse : Script)
deriving DecidableEq, Repr, Inhabited

/-- FREE VALUE. What the handler answers to the `n`-th call of the run when the state queues no answer for it: the
environment's choice (R108), constrained by nothing (log entry 4). -/
opaque Config.handlerAnswer : Nat → HandlerCall → Script

end Sys2Proof
end

