-- ==== Sys2Proof/Syntax.lean ====
section
/-! DEFINITION. The operations as syntax: one constructor of `Instr` per row of spec/opcode_table.json (9 port rows,
18 internal rows, 12 wire rows), what the outside presents to the block (`Stimulus`), and the units that the matching of R71
reads (`Encoding`). -/

namespace Sys2Proof

/-- The three groups of rows of the opcode table (R71). -/
inductive Group
  | port
  | internal
  | wire
deriving DecidableEq, Repr

/-- The operations, micro-operations and wire elements of the opcode table, one constructor per row. -/
inductive Instr
  -- group port (R67)
  /-- RESET (R135). -/
  | reset
  /-- DECODE_BYTE (R85): the next byte of the receive stream. -/
  | decodeByte (b : Byte)
  /-- REGISTER (R100); a `none` handler is the implementation's null of R176 (e). -/
  | register (hash : Byte) (handler : Option Handler) (context : Context)
  /-- ADD_DATA (R121). -/
  | addData (hash command : Byte) (payload : List Byte) (n : Byte)
  /-- ADD_REQUEST (R122). -/
  | addRequest (type hash command : Byte)
  /-- BUILD (R126). -/
  | build
  /-- DEC_RESET (R136). -/
  | decReset
  /-- RUN_DISPATCH (R137). -/
  | runDispatch
  /-- A select code 0x8 to 0xF (R67). -/
  | unassignedOp (code : BitVec 4)
  -- group internal (R67)
  /-- CHECKSUM (R80). -/
  | checksum (bytes : List Byte)
  /-- CKS_STEP (R81). -/
  | cksStep (b : Byte)
  /-- DEC_HEADER (R86). -/
  | decHeader (b : Byte)
  /-- DEC_LENGTH (R87). -/
  | decLength (b : Byte)
  /-- DEC_PAYLOAD (R88). -/
  | decPayload (b : Byte)
  /-- DEC_CHECK with a matching checksum (R89). -/
  | decCheckMatch (b : Byte)
  /-- DEC_CHECK with a mismatching checksum (R90). -/
  | decCheckMismatch (b : Byte)
  /-- COMPLETE (R91). -/
  | complete
  /-- LOOKUP (R102). -/
  | lookup (hash : Byte)
  /-- DISPATCH (R103). -/
  | dispatch (total : Nat)
  /-- SF_CHECK (R104). -/
  | sfCheck (offset : Nat) (length : Byte) (total : Nat)
  /-- SF_ALIVE (R105). -/
  | sfAlive (command : Byte)
  /-- SF_KNOWN (R106). -/
  | sfKnown (slot : Nat) (type command : Byte) (payload : List Byte)
  /-- SF_UNKNOWN (R107). -/
  | sfUnknown (hash command : Byte)
  /-- CALL_HANDLER (R108). -/
  | callHandler (handler : Handler) (context : Context) (type command : Byte) (payload : List Byte)
  /-- ADD (R120). -/
  | add (type hash command : Byte) (payload : List Byte) (n : Byte)
  /-- FINALIZE (R124). -/
  | finalize
  /-- TX_SEND (R125). -/
  | txSend
  -- group wire: packet byte positions (R60)
  /-- Wire byte 0, the header sentinel. -/
  | pktHeader
  /-- Wire byte 1, the declared length `L`. -/
  | pktLength (b : Byte)
  /-- One of the wire bytes 2 .. 1+L, a payload byte. -/
  | pktPayload (b : Byte)
  /-- Wire byte 2+L, the checksum. -/
  | pktChecksum (b : Byte)
  -- group wire: sub-frame kinds (R61, R62); `rest` is what follows the 4 header bytes in the payload
  /-- A Data sub-frame. -/
  | sfData (length hash command : Byte) (rest : List Byte)
  /-- An Ack sub-frame. -/
  | sfAck (length hash command : Byte) (rest : List Byte)
  /-- A Nack sub-frame. -/
  | sfNack (length hash command : Byte) (rest : List Byte)
  /-- A Request sub-frame. -/
  | sfRequest (length hash command : Byte) (rest : List Byte)
  /-- An Empty sub-frame. -/
  | sfEmpty (length hash command : Byte) (rest : List Byte)
  -- group wire: dispatch classes (R71)
  /-- Hash 0: the alive probe (R105). -/
  | sfClassAlive (length type command : Byte) (rest : List Byte)
  /-- A registered hash (R106). -/
  | sfClassRegistered (length type hash command : Byte) (rest : List Byte)
  /-- An unregistered hash (R107). -/
  | sfClassUnregistered (length type hash command : Byte) (rest : List Byte)
deriving DecidableEq, Repr

/-- The operand buses of the command port (R67: "operands on separate operand buses"); a bus an operation does not
use is ignored. A `none` on the handler bus is the implementation's null (R176 (e)). -/
structure PortBus where
  byte : Byte := 0
  hash : Byte := 0
  command : Byte := 0
  type : Byte := 0
  n : Byte := 0
  payload : List Byte := []
  handler : Option Handler := some ⟨0⟩
  context : Context := ⟨0⟩
deriving DecidableEq, Repr

/-- What an outside agent presents to the block for one step: one port operation (R16, R17), at the command port or as a byte
of the receive stream. Nothing else runs the block. -/
inductive Stimulus
  /-- An operation at the command port: the select code `op[3:0]` and the operand buses (R67). -/
  | port (op : BitVec 4) (bus : PortBus)
  /-- One byte of the receive stream (R40, R60): a DECODE_BYTE by TRANSPORT_RX. -/
  | wire (b : Byte)
deriving DecidableEq, Repr

/-- A unit of encoding that the matching of R71 reads: what the outside presents, or the bytes of a received payload from the
start of a sub-frame on, which the multiplexer reads inside a dispatch (R61, R103). -/
inductive Encoding
  /-- A port operation or a received byte (R60, R67). -/
  | outside (st : Stimulus)
  /-- The bytes of a payload from the start of a sub-frame on, named by the kind of its type byte (R61, R62). -/
  | subframe (bytes : List Byte)
  /-- The same bytes, named by the class of the hash byte, as the multiplexer routes it (R71, R103). -/
  | routed (bytes : List Byte)
deriving DecidableEq, Repr

/-- The group of an operation's row (R71). -/
def Instr.group : Instr → Group
  | .reset | .decodeByte _ | .register _ _ _ | .addData _ _ _ _ | .addRequest _ _ _ | .build | .decReset
  | .runDispatch | .unassignedOp _ => .port
  | .checksum _ | .cksStep _ | .decHeader _ | .decLength _ | .decPayload _ | .decCheckMatch _
  | .decCheckMismatch _ | .complete | .lookup _ | .dispatch _ | .sfCheck _ _ _ | .sfAlive _ | .sfKnown _ _ _ _
  | .sfUnknown _ _ | .callHandler _ _ _ _ _ | .add _ _ _ _ _ | .finalize | .txSend => .internal
  | .pktHeader | .pktLength _ | .pktPayload _ | .pktChecksum _ | .sfData _ _ _ _ | .sfAck _ _ _ _
  | .sfNack _ _ _ _ | .sfRequest _ _ _ _ | .sfEmpty _ _ _ _ | .sfClassAlive _ _ _ _
  | .sfClassRegistered _ _ _ _ _ | .sfClassUnregistered _ _ _ _ _ => .wire

end Sys2Proof
end

