-- ==== Sys2Proof/WellFormed.lean ====
section
/-! DEFINITION. The operand ranges the rules state for each operation, as a decidable check. -/

namespace Sys2Proof

/-- The largest payload a sub-frame can carry: `length - SF_HDR` with `length <= 255` (R65). -/
def maxSubframePayload : Nat := 255 - sfHdr

/-- An operation whose operands are in the ranges its rule states: REGISTER has a handler (R14), ADD_DATA and ADD have
`len(payload) = n` (R120, R121), an unassigned select code is 0x8 to 0xF (R67), LOOKUP, SF_UNKNOWN and the two routed
classes have a non-zero hash (R102, R106, R107), DISPATCH's total is at most the largest RX_CAP (R9, R103), and a payload
handed to a handler fits a sub-frame (R65). -/
def Instr.wellFormed : Instr → Bool
  | .register _ handler _ => handler.isSome
  | .addData _ _ payload n => payload.length == n.toNat
  | .add _ _ _ payload n => payload.length == n.toNat
  | .unassignedOp code => decide (8 ≤ code.toNat)
  | .lookup hash => hash != hashAlive
  | .sfUnknown hash _ => hash != hashAlive
  | .sfClassRegistered _ _ hash _ _ => hash != hashAlive
  | .sfClassUnregistered _ _ hash _ _ => hash != hashAlive
  | .dispatch total => decide (total ≤ 255)
  | .sfKnown _ _ _ payload => decide (payload.length ≤ maxSubframePayload)
  | .callHandler _ _ _ _ payload => decide (payload.length ≤ maxSubframePayload)
  | .reset | .decodeByte _ | .addRequest _ _ _ | .build | .decReset | .runDispatch | .checksum _ | .cksStep _
  | .decHeader _ | .decLength _ | .decPayload _ | .decCheckMatch _ | .decCheckMismatch _ | .complete
  | .sfCheck _ _ _ | .sfAlive _ | .finalize | .txSend | .pktHeader | .pktLength _ | .pktPayload _
  | .pktChecksum _ | .sfData _ _ _ _ | .sfAck _ _ _ _ | .sfNack _ _ _ _ | .sfRequest _ _ _ _
  | .sfEmpty _ _ _ _ | .sfClassAlive _ _ _ _ => true

end Sys2Proof
end

