-- ==== Sys2Proof/Decode.lean ====
section
/-! DEFINITION. From an encoding to an operation, and back. The port rows are matched on `op[3:0]`, the
packet rows by the decoder's position, the sub-frame kinds on the type byte, the dispatch classes on the hash byte (R71). -/

namespace Sys2Proof

/-- Which byte of a packet the next received byte is (R45, R71). -/
inductive WirePosition
  | header
  | length
  | payload
  | checksum
deriving DecidableEq, Repr

/-- What the matching of R71 needs to know of the machine: the parameters, the decoder's position and the hashes that
occupied slots of the table hold. -/
structure DecodeContext where
  cfg : Config
  position : WirePosition
  registered : List Byte
deriving DecidableEq, Repr

/-- Why an encoding names no operation. -/
inductive DecodeError
  /-- Fewer bytes of a sub-frame than the 4-byte header (R61). DESIGN CHOICE, log entry 9. -/
  | shortSubframe
deriving DecidableEq, Repr

/-- The command port (R67): the select code picks the operation, which takes its operands from its buses. -/
def decodePort (op : BitVec 4) (bus : PortBus) : Instr :=
  match op.toNat with
  | 0 => .reset
  | 1 => .decodeByte bus.byte
  | 2 => .register bus.hash bus.handler bus.context
  | 3 => .addData bus.hash bus.command bus.payload bus.n
  | 4 => .addRequest bus.type bus.hash bus.command
  | 5 => .build
  | 6 => .decReset
  | 7 => .runDispatch
  | _ => .unassignedOp op

/-- A received byte (R60, R71): named by the decoder's position. In header position only the sentinel opens a packet; any
other byte belongs to no packet (R64) and is a bare DECODE_BYTE. -/
def decodeWire (ctx : DecodeContext) (b : Byte) : Instr :=
  match ctx.position with
  | .header => if b = ctx.cfg.header then .pktHeader else .decodeByte b
  | .length => .pktLength b
  | .payload => .pktPayload b
  | .checksum => .pktChecksum b

/-- A sub-frame named by the class of its hash byte (R71, R103): 0, registered, unregistered. -/
def decodeClass (ctx : DecodeContext) (length type hash command : Byte) (rest : List Byte) : Instr :=
  if hash = hashAlive then .sfClassAlive length type command rest
  else if hash ∈ ctx.registered then .sfClassRegistered length type hash command rest
  else .sfClassUnregistered length type hash command rest

/-- A sub-frame named by its type byte (R62). A type byte that is none of the five codes has no kind and is named by its
class (R66: "no special case: handled by hash like any sub-frame"). -/
def decodeKind (ctx : DecodeContext) (length type hash command : Byte) (rest : List Byte) : Instr :=
  if type = ctx.cfg.typeData then .sfData length hash command rest
  else if type = ctx.cfg.typeAck then .sfAck length hash command rest
  else if type = ctx.cfg.typeNack then .sfNack length hash command rest
  else if type = ctx.cfg.typeRequest then .sfRequest length hash command rest
  else if type = ctx.cfg.typeEmpty then .sfEmpty length hash command rest
  else decodeClass ctx length type hash command rest

/-- What the outside presents, as an operation: total, since each of the 16 select codes and each byte has a row (R67, R85). -/
def decodeStimulus (ctx : DecodeContext) : Stimulus → Instr
  | .port op bus => decodePort op bus
  | .wire b => decodeWire ctx b

/-- The decoder: total; the only encoding that names no operation is a sub-frame without a whole header. -/
def decode (ctx : DecodeContext) : Encoding → Except DecodeError Instr
  | .outside st => .ok (decodeStimulus ctx st)
  | .subframe (length :: type :: hash :: command :: rest) => .ok (decodeKind ctx length type hash command rest)
  | .subframe _ => .error .shortSubframe
  | .routed (length :: type :: hash :: command :: rest) => .ok (decodeClass ctx length type hash command rest)
  | .routed _ => .error .shortSubframe

/-- The encoder, from the tables of R60, R61, R62 and R67. The internal micro-operations have no encoding (R67). -/
def encode (cfg : Config) : Instr → Option Encoding
  | .reset => some (.outside (.port 0x0 {}))
  | .decodeByte b => some (.outside (.port 0x1 { byte := b }))
  | .register hash handler context => some (.outside (.port 0x2 { hash := hash, handler := handler, context := context }))
  | .addData hash command payload n => some (.outside (.port 0x3 { hash := hash, command := command, payload := payload, n := n }))
  | .addRequest type hash command => some (.outside (.port 0x4 { type := type, hash := hash, command := command }))
  | .build => some (.outside (.port 0x5 {}))
  | .decReset => some (.outside (.port 0x6 {}))
  | .runDispatch => some (.outside (.port 0x7 {}))
  | .unassignedOp code => some (.outside (.port code {}))
  | .checksum _ | .cksStep _ | .decHeader _ | .decLength _ | .decPayload _ | .decCheckMatch _
  | .decCheckMismatch _ | .complete | .lookup _ | .dispatch _ | .sfCheck _ _ _ | .sfAlive _ | .sfKnown _ _ _ _
  | .sfUnknown _ _ | .callHandler _ _ _ _ _ | .add _ _ _ _ _ | .finalize | .txSend => none
  | .pktHeader => some (.outside (.wire cfg.header))
  | .pktLength b => some (.outside (.wire b))
  | .pktPayload b => some (.outside (.wire b))
  | .pktChecksum b => some (.outside (.wire b))
  | .sfData length hash command rest => some (.subframe (length :: cfg.typeData :: hash :: command :: rest))
  | .sfAck length hash command rest => some (.subframe (length :: cfg.typeAck :: hash :: command :: rest))
  | .sfNack length hash command rest => some (.subframe (length :: cfg.typeNack :: hash :: command :: rest))
  | .sfRequest length hash command rest => some (.subframe (length :: cfg.typeRequest :: hash :: command :: rest))
  | .sfEmpty length hash command rest => some (.subframe (length :: cfg.typeEmpty :: hash :: command :: rest))
  | .sfClassAlive length type command rest => some (.routed (length :: type :: hashAlive :: command :: rest))
  | .sfClassRegistered length type hash command rest => some (.routed (length :: type :: hash :: command :: rest))
  | .sfClassUnregistered length type hash command rest => some (.routed (length :: type :: hash :: command :: rest))

/-- Where the matching of R71 can name a row: a port row anywhere; a packet row in its decoder position; a sub-frame kind
anywhere; a dispatch class where the table has, or has not, the hash. An internal row nowhere. -/
def Instr.selectedIn (ctx : DecodeContext) : Instr → Bool
  | .reset | .decodeByte _ | .register _ _ _ | .addData _ _ _ _ | .addRequest _ _ _ | .build | .decReset
  | .runDispatch | .unassignedOp _ => true
  | .checksum _ | .cksStep _ | .decHeader _ | .decLength _ | .decPayload _ | .decCheckMatch _
  | .decCheckMismatch _ | .complete | .lookup _ | .dispatch _ | .sfCheck _ _ _ | .sfAlive _ | .sfKnown _ _ _ _
  | .sfUnknown _ _ | .callHandler _ _ _ _ _ | .add _ _ _ _ _ | .finalize | .txSend => false
  | .pktHeader => ctx.position == .header
  | .pktLength _ => ctx.position == .length
  | .pktPayload _ => ctx.position == .payload
  | .pktChecksum _ => ctx.position == .checksum
  | .sfData _ _ _ _ | .sfAck _ _ _ _ | .sfNack _ _ _ _ | .sfRequest _ _ _ _ | .sfEmpty _ _ _ _
  | .sfClassAlive _ _ _ _ => true
  | .sfClassRegistered _ _ hash _ _ => decide (hash ∈ ctx.registered)
  | .sfClassUnregistered _ _ hash _ _ => decide (hash ∉ ctx.registered)

/-- Where the table's words are read: the test configuration, the decoder and the table as after reset. -/
def tableContext : DecodeContext := { cfg := Config.default, position := .header, registered := [] }

/-- Bits `8k+7 .. 8k` of a table word. -/
def wordByte (w k : Nat) : Byte := BitVec.ofNat 8 (w / 2 ^ (8 * k))

/-- The 4 header bytes of a 32-bit sub-frame word in wire order (R61: length leftmost, so in bits 31..24), followed by
`length - 4` payload bytes of zeros. -/
def subframeWordBytes (w : Nat) : List Byte :=
  wordByte w 3 :: wordByte w 2 :: wordByte w 1 :: wordByte w 0 ::
    List.replicate ((wordByte w 3).toNat - sfHdr) 0

/-- A word of the opcode table as an encoding (DESIGN CHOICE, log entry 8). A row of at most 8 bits is the
sentinel byte on the wire if it is 0x23, else a select code at the port with every operand bus zero; a longer row is
a sub-frame, by kind if its type byte is one of the five codes, else by class. -/
def tableEncoding (nbits w : Nat) : Encoding :=
  if nbits ≤ 8 then
    if wordByte w 0 = tableContext.cfg.header then .outside (.wire (wordByte w 0))
    else .outside (.port (BitVec.ofNat 4 w) {})
  else if wordByte w 2 ∈ [tableContext.cfg.typeData, tableContext.cfg.typeAck, tableContext.cfg.typeNack,
      tableContext.cfg.typeRequest, tableContext.cfg.typeEmpty] then .subframe (subframeWordBytes w)
  else .routed (subframeWordBytes w)

/-- The operation the decoder reads from a word of the opcode table. -/
def decodeTableWord (nbits w : Nat) : Option Instr :=
  match decode tableContext (tableEncoding nbits w) with
  | .ok i => some i
  | .error _ => none

end Sys2Proof
end

