-- ==== Sys2Proof/Machine/State.lean ====
section
/-! DEFINITION. The state of one link (10_state.md R20), plain data; the reasons a step can stop; the state after reset
(70_reset_and_hazards.md R170). -/

namespace Sys2Proof.Machine

/-- `dec_state` (R21): exactly three stored values. -/
inductive DecState
  | awaitHeader
  | awaitLength
  | readPayload
deriving DecidableEq, Repr

/-- The five decode statuses (R68). -/
inductive Status
  | pending
  | done
  | errorHeader
  | errorLength
  | errorChecksum
deriving DecidableEq, Repr

/-- What an operation returns to its caller: nothing, a status (R68), a boolean (R69), a byte (R80) or the slot index of
LOOKUP (R102). -/
inductive Result
  | nothing
  | status (s : Status)
  | bool (b : Bool)
  | byte (b : Byte)
  | slot (k : Option Nat)
deriving DecidableEq, Repr

/-- An output event (R35): a handler call with its arguments, or a finished packet for the transport. -/
inductive Event
  | call (c : HandlerCall)
  | txSend (bytes : List Byte)
deriving DecidableEq, Repr

/-- The three fields of a Registration Entry (R31). -/
structure Entry where
  hash : Byte
  handler : Handler
  context : Context
deriving DecidableEq, Repr

/-- A table slot (R31): empty, or occupied by an entry. The dead fields of an empty slot are not held (U6). -/
abbrev Slot := Option Entry

/-- A byte buffer: the written cells in rising order of index. An unlisted index holds no value (R171). -/
abbrev Memory := List Host.Cell

/-- The canonical form: indices strictly rising. An unlisted index reads as no value, so no entry can equal that. -/
abbrev Memory.wf (m : Memory) : Prop := m.Pairwise (fun a b => a.1 < b.1)

/-- Why the machine faults. Each is unreachable under the operations of the ports (R19, R171). -/
inductive Fault
  /-- A read of `rx_buf` at an index nothing has written (R171, U6). Raised by DISPATCH. Safe: the model stops. -/
  | rxUnwritten (index : Nat)
  /-- An access to `rx_buf` at an index `>= RX_CAP`, which does not exist (R26, R47). Raised by DEC_PAYLOAD and DISPATCH. Safe. -/
  | rxOutOfRange (index : Nat)
  /-- A read of `tx_buf` at an index nothing has written (R171, U6, U8). Raised by FINALIZE and TX_SEND. Safe. -/
  | txUnwritten (index : Nat)
  /-- An access to `tx_buf` at an index `> TX_LIMIT`, which does not exist (R27, R46). Raised by FINALIZE and TX_SEND. Safe. -/
  | txOutOfRange (index : Nat)
deriving DecidableEq, Repr

/-- Why an operation has no meaning. -/
inductive Refusal
  /-- The instruction has no meaning in the model yet. Raised by `exec`'s arm only. Safe. -/
  | notModelled (mnemonic : String)
  /-- DECODE_BYTE or DEC_RESET while `pkt_ready = 1` (R176 (a)). Safe: the spec gives no meaning. -/
  | packetPending
  /-- A select code 0x8 to 0xF (R67, R176 (d)). Safe. -/
  | unassignedOpcode (code : BitVec 4)
  /-- REGISTER with a null handler (R176 (e)). Safe. -/
  | nullHandler
  /-- ADD_DATA or ADD with `len(payload) != n` (R120, R176 (f)). Safe. -/
  | lengthMismatch
  /-- A micro-operation or dispatch class outside the condition that its row's `selected_by` in the opcode table names. Safe. -/
  | notSelected
  /-- An operand outside the range its rule states: LOOKUP of hash 0 (R102), DISPATCH of more than RX_CAP bytes (R103). Safe. -/
  | operandOutOfRange
deriving DecidableEq, Repr

/-- One link instance. The first twelve fields below `cfg` are the spec's state (R20, R35); `cfg`, `result`, `pending`,
`answers` and `calls` are the model's own (INVENTORY.md, State). -/
structure State where
  /-- The parameters of this instance (R6 to R15); no operation writes them. -/
  cfg : Config
  /-- `dec_state` (R21). -/
  decState : DecState
  /-- `cks_acc` (R22). -/
  cksAcc : Byte
  /-- `rx_cursor` (R23). -/
  rxCursor : Byte
  /-- `rx_len` (R24). -/
  rxLen : Byte
  /-- `rx_cap` (R25). -/
  rxCap : Byte
  /-- `rx_buf` (R26). -/
  rxBuf : Memory
  /-- `tx_buf` (R27). -/
  txBuf : Memory
  /-- `tx_cursor` (R28). -/
  txCursor : Nat
  /-- `tx_len` (R29). -/
  txLen : Nat
  /-- `pkt_ready` (R30). -/
  pktReady : Bool
  /-- The registration table (R31, R32). -/
  table : List Slot
  /-- The output trace (R35), oldest event first. -/
  trace : List Event
  /-- What the last operation returned (R34, R68, R69). -/
  result : Result
  /-- The operations issued and not yet taken, in order (R17, R49). -/
  pending : List Stimulus
  /-- The handler answers queued, one for each coming call (R108). -/
  answers : List Script
  /-- How many handler calls the run has made. -/
  calls : Nat
deriving DecidableEq, Repr

/-- The state after RESET of an instance with the given parameters (R170), nothing issued. -/
def State.fresh (cfg : Config) : State :=
  { cfg := cfg, decState := .awaitHeader, cksAcc := 0, rxCursor := 0, rxLen := 0,
    rxCap := BitVec.ofNat 8 cfg.rxCapacity, rxBuf := [], txBuf := [(0, cfg.header)], txCursor := hdrSize, txLen := 0,
    pktReady := false, table := List.replicate cfg.tableSlots none, trace := [], result := .nothing, pending := [],
    answers := [], calls := 0 }

/-- The machine right after reset, in the configuration of the test vectors (log entry 1). -/
def State.reset : State := State.fresh Config.default

end Sys2Proof.Machine
end

