-- ==== Sys2Proof/Machine/Flags.lean ====
section
/-! DEFINITION. The block keeps no flags (R34); what stands in their place are the checksum and the returned codes: the sum
modulo 256 (R80, R81), the numeric codes of `dec_state` (R21), of the statuses (R68) and of the booleans (R69). -/

namespace Sys2Proof.Machine

/-- CHECKSUM (R80): the sum over the naturals, then reduced modulo 256. -/
def checksum (bytes : List Byte) : Byte := BitVec.ofNat 8 ((bytes.map BitVec.toNat).sum)

/-- One CKS_STEP (R81): `(acc + b) mod 256`. -/
def cksStep (acc b : Byte) : Byte := BitVec.ofNat 8 (acc.toNat + b.toNat)

/-- The stored encoding of `dec_state` (R21); the value 3 is never written. -/
def decStateCode : DecState → BitVec 2
  | .awaitHeader => 0
  | .awaitLength => 1
  | .readPayload => 2

/-- The status codes (R68); 5 to 7 are never returned. -/
def statusCode : Status → BitVec 3
  | .pending => 0
  | .done => 1
  | .errorHeader => 2
  | .errorLength => 3
  | .errorChecksum => 4

/-- The boolean results (R69): 1 = success, 0 = failure. -/
def boolCode (b : Bool) : BitVec 1 := BitVec.ofBool b

end Sys2Proof.Machine
end

