-- ==== Sys2Proof/Machine/Ops.lean ====
section
/-! DEFINITION. The shared operations over the buffers, the builder, the table and the environment: byte access (R40, R47),
ADD (R120), FINALIZE and TX_SEND (R124, R125), the table scans (R100, R102), the handler call (R108, R156, R157), and what
`step` needs to take the next operation. There are no traps (R145): the control transfers out of the block are the handler
call `callHandler` here and the completion callback `completeLink` of Operands.lean. -/

namespace Sys2Proof.Machine

/-- The byte a buffer holds at an index, if one was written. -/
def Memory.read : Memory → Nat → Option Byte
  | [], _ => none
  | (a, b) :: rest, x => if x = a then some b else Memory.read rest x

/-- Write one byte; the canonical form is kept. -/
def Memory.write : Memory → Nat → Byte → Memory
  | [], x, v => [(x, v)]
  | (a, b) :: rest, x, v =>
    if x < a then (x, v) :: (a, b) :: rest
    else if x = a then (x, v) :: rest
    else (a, b) :: Memory.write rest x v

/-- Write a byte sequence from an index on, in ascending index (R41). -/
def Memory.writeAll : Memory → Nat → List Byte → Memory
  | m, _, [] => m
  | m, a, b :: rest => Memory.writeAll (m.write a b) (a + 1) rest

/-- `MemRead(RX, i, 1)` (R18, R40, R171). -/
def readRx (s : State) (i : Nat) : Except Fault Byte :=
  if i < s.cfg.rxCapacity then
    match s.rxBuf.read i with
    | some b => .ok b
    | none => .error (.rxUnwritten i)
  else .error (.rxOutOfRange i)

/-- `MemRead(TX, i, 1)` (R18, R40, R171). -/
def readTx (s : State) (i : Nat) : Except Fault Byte :=
  if i < s.cfg.txBufSize then
    match s.txBuf.read i with
    | some b => .ok b
    | none => .error (.txUnwritten i)
  else .error (.txOutOfRange i)

/-- `rx_buf[a .. a + n)` (R18). -/
def readRxRange (s : State) (a : Nat) : Nat → Except Fault (List Byte)
  | 0 => .ok []
  | n + 1 =>
    match readRx s a with
    | .error f => .error f
    | .ok b =>
      match readRxRange s (a + 1) n with
      | .error f => .error f
      | .ok bs => .ok (b :: bs)

/-- `tx_buf[a .. a + n)` (R18). -/
def readTxRange (s : State) (a : Nat) : Nat → Except Fault (List Byte)
  | 0 => .ok []
  | n + 1 =>
    match readTx s a with
    | .error f => .error f
    | .ok b =>
      match readTxRange s (a + 1) n with
      | .error f => .error f
      | .ok bs => .ok (b :: bs)

/-- `MemWrite(RX, i, 1, v)` (R18, R47). -/
def writeRx (s : State) (i : Nat) (v : Byte) : Except Fault State :=
  if i < s.cfg.rxCapacity then .ok { s with rxBuf := s.rxBuf.write i v } else .error (.rxOutOfRange i)

/-- `MemWrite(TX, i, 1, v)` (R18, R47). -/
def writeTx (s : State) (i : Nat) (v : Byte) : Except Fault State :=
  if i < s.cfg.txBufSize then .ok { s with txBuf := s.txBuf.write i v } else .error (.txOutOfRange i)

/-- Record what the operation returns to its caller (R34). -/
def withResult (s : State) (r : Result) : State := { s with result := r }

/-- `emit` (R18, R35): append an event to the output trace. -/
def emit (s : State) (e : Event) : State := { s with trace := s.trace ++ [e] }

/-- The outcome of a meaning whose result has been recorded. -/
def finish : Except Fault State → Host.Outcome State Fault Refusal
  | .ok s => .next s
  | .error f => .fault f

/-- The outcome of a meaning that returns a boolean (R69). -/
def finishBool : Except Fault (Bool × State) → Host.Outcome State Fault Refusal
  | .ok (b, s) => .next (withResult s (.bool b))
  | .error f => .fault f

/-- The outcome of a meaning that returns a status (R68). -/
def finishStatus : Except Fault (Status × State) → Host.Outcome State Fault Refusal
  | .ok (st, s) => .next (withResult s (.status st))
  | .error f => .fault f

/-! ### The builder -/

/-- The bytes ADD writes (R120): the sub-frame header and, only for the Data type, the `n` payload bytes. -/
def addBytes (cfg : Config) (type hash command : Byte) (payload : List Byte) (n : Nat) : List Byte :=
  [BitVec.ofNat 8 (sfHdr + n), type, hash, command] ++ (if type = cfg.typeData then payload.take n else [])

/-- ADD (R120). The check is over naturals without wrap; on rejection nothing is written. The writes stay below
`tx_cursor + frame_length <= TX_LIMIT`, so no index leaves the buffer (R47). With `tx_cursor < HDR_SIZE`, which no run reaches, a
length above 255 is stored as its low 8 bits (DESIGN CHOICE, log entry 13). -/
def addFrame (s : State) (type hash command : Byte) (payload : List Byte) (n : Nat) : Bool × State :=
  if s.txCursor + (sfHdr + n) > s.cfg.txLimit then (false, s)
  else (true, { s with txBuf := s.txBuf.writeAll s.txCursor (addBytes s.cfg type hash command payload n),
                       txCursor := s.txCursor + (sfHdr + n) })

/-- `add_data` (R121): ADD with the Data type. -/
def addDataFrame (s : State) (hash command : Byte) (payload : List Byte) (n : Nat) : Bool × State :=
  addFrame s s.cfg.typeData hash command payload n

/-- `add_request` (R122): ADD with a zero-length payload. -/
def addRequestFrame (s : State) (type hash command : Byte) : Bool × State :=
  addFrame s type hash command [] 0

/-- TX_SEND (R125): the event carries the `HDR_SIZE + tx_len` bytes of `tx_buf` as they stand. -/
def sendPacket (s : State) : Except Fault State :=
  match readTxRange s 0 (hdrSize + s.txLen) with
  | .ok bytes => .ok (emit s (.txSend bytes))
  | .error f => .error f

/-- The writes of a FINALIZE that has something to send (R124, steps (1) to (4)), before the event. -/
def sealPacket (s : State) (length : Nat) (sum : Byte) : State :=
  { s with txBuf := ((s.txBuf.write 0 s.cfg.header).write 1 (BitVec.ofNat 8 length)).write s.txCursor sum,
           txLen := length + 1, txCursor := hdrSize }

/-- FINALIZE (R124). With nothing accumulated it writes nothing and returns false; else it writes the header, the length
and the checksum over exactly the accumulated sub-frame bytes, records `L + 1`, resets the cursor and sends. -/
def finalizePacket (s : State) : Except Fault (Bool × State) :=
  if hdrSize < s.txCursor then
    match readTxRange s hdrSize (s.txCursor - hdrSize) with
    | .error f => .error f
    | .ok bytes =>
      if s.txCursor < s.cfg.txBufSize then
        match sendPacket (sealPacket s (s.txCursor - hdrSize) (checksum bytes)) with
        | .ok t => .ok (true, t)
        | .error f => .error f
      else .error (.txOutOfRange s.txCursor)
  else .ok (false, s)

/-! ### The registration table -/

/-- The scan of REGISTER (R100): fill the lowest-numbered empty slot; `none` when the table is full. -/
def fillFirst (e : Entry) : List Slot → Option (List Slot)
  | [] => none
  | none :: rest => some (some e :: rest)
  | some x :: rest => (fillFirst e rest).map (some x :: ·)

/-- The scan of LOOKUP (R102) from slot `k` on: the lowest occupied slot whose hash is equal. -/
def findFrom (hash : Byte) : Nat → List Slot → Option (Nat × Entry)
  | _, [] => none
  | k, none :: rest => findFrom hash (k + 1) rest
  | k, some e :: rest => if e.hash = hash then some (k, e) else findFrom hash (k + 1) rest

/-- LOOKUP (R102), with the entry of the slot found. -/
def findSlot (s : State) (hash : Byte) : Option (Nat × Entry) := findFrom hash 0 s.table

/-- The hashes of the occupied slots. -/
def registeredHashes (s : State) : List Byte := s.table.filterMap (Option.map Entry.hash)

/-! ### The handler call -/

/-- One ADD operation of a handler (R108), with its boolean result. The length is that of the payload. A payload of more than
255 bytes has no `n : u8` equal to its length (R121, D20), so no port operation carries it; here it is answered false like any
payload that does not fit (DESIGN CHOICE, log entry 4). -/
def runAddOp (s : State) : AddOp → Bool × State
  | .data hash command payload => addDataFrame s hash command payload payload.length
  | .request type hash command => addRequestFrame s type hash command

/-- The operations a handler issues before it returns, in order, each chosen from the result before (R108). -/
def runScript : Script → State → State
  | .ret, s => s
  | .add op ifTrue ifFalse, s =>
    match runAddOp s op with
    | (true, t) => runScript ifTrue t
    | (false, t) => runScript ifFalse t

/-- What the environment's handler does in this call: the next queued answer, else the free value (log entry 4). -/
def handlerScript (s : State) (c : HandlerCall) : Script :=
  match s.answers with
  | script :: _ => script
  | [] => Config.handlerAnswer s.calls c

/-- The state at the handler's entry (R156): the call is in the trace; the model counts it and takes the queued answer. -/
def enterHandler (s : State) (c : HandlerCall) : State :=
  { emit s (.call c) with answers := s.answers.tail, calls := s.calls + 1 }

/-- CALL_HANDLER (R108): entry, the handler's operations, return. Nothing is saved and nothing restored (R156, R157). -/
def callHandler (s : State) (c : HandlerCall) : State :=
  runScript (handlerScript s c) (enterHandler s c)

/-! ### Taking the next operation -/

/-- Which byte of a packet the next received byte is (R45, R85). -/
def wirePosition (s : State) : WirePosition :=
  match s.decState with
  | .awaitHeader => .header
  | .awaitLength => .length
  | .readPayload => if s.rxCursor.toNat < s.rxLen.toNat then .payload else .checksum

/-- What the matching of R71 reads of the state. -/
def decodeContext (s : State) : DecodeContext :=
  { cfg := s.cfg, position := wirePosition s, registered := registeredHashes s }

/-- The state once the first of the issued operations is taken. -/
def takePending (s : State) : State := { s with pending := s.pending.tail }

/-- The state with one more operation issued, before all others. -/
def issueFirst (s : State) (st : Stimulus) : State := { s with pending := st :: s.pending }

/-- The state in which a packet with the given payload has been received and the port operation that runs its dispatch is
issued (R16, R17): in Inline mode the DECODE_BYTE of the matching checksum (R89), in Deferred mode RUN_DISPATCH (R137). -/
def holdPayload (s : State) (payload : List Byte) : State :=
  match s.cfg.dispatchMode with
  | .inline =>
    issueFirst { s with decState := .readPayload, cksAcc := checksum payload, rxCursor := BitVec.ofNat 8 payload.length,
                        rxLen := BitVec.ofNat 8 payload.length, rxBuf := s.rxBuf.writeAll 0 payload, pktReady := false }
      (.wire (checksum payload))
  | .deferred =>
    issueFirst { s with decState := .awaitHeader, rxLen := BitVec.ofNat 8 payload.length,
                        rxBuf := s.rxBuf.writeAll 0 payload, pktReady := true }
      (.port 0x7 {})

end Sys2Proof.Machine
end

