-- ==== Sys2Proof/Machine/Operands.lean ====
section
/-! DEFINITION. The sub-frame as an operand (R61, R63) and the engine that walks a payload: SF_CHECK (R104), the handling
of one sub-frame by its hash (R103, R105 to R107), DISPATCH (R103, R109), COMPLETE (R91), and the decoder's arms (R85 to
R90), each over the shared operations of Ops.lean. -/

namespace Sys2Proof.Machine

/-- The fields of a sub-frame after its length byte (R61). -/
structure Subframe where
  type : Byte
  hash : Byte
  command : Byte
  payload : List Byte
deriving DecidableEq, Repr

/-- SF_CHECK (R104), over naturals without wrap. -/
def sfCheckPasses (offset length total : Nat) : Bool := decide (sfHdr ≤ length) && decide (offset + length ≤ total)

/-- The sub-frame of the given length at `offset` of `rx_buf` (R44, R103). -/
def fetchSubframe (s : State) (offset length : Nat) : Except Fault Subframe := do
  let type ← readRx s (offset + 1)
  let hash ← readRx s (offset + 2)
  let command ← readRx s (offset + 3)
  let payload ← readRxRange s (offset + sfHdr) (length - sfHdr)
  return { type := type, hash := hash, command := command, payload := payload }

/-- SF_ALIVE (R105): an ACK echoing the command, with hash 0; a rejected append is dropped. -/
def answerAlive (s : State) (command : Byte) : State := (addRequestFrame s s.cfg.typeAck hashAlive command).2

/-- SF_UNKNOWN (R107): a NACK with the same hash and command; a rejected append is dropped. -/
def answerUnknown (s : State) (hash command : Byte) : State := (addRequestFrame s s.cfg.typeNack hash command).2

/-- SF_KNOWN (R106): call the entry's handler with its context; the type byte is passed through unexamined. -/
def deliverKnown (s : State) (e : Entry) (type command : Byte) (payload : List Byte) : State :=
  callHandler s { handler := e.handler, context := e.context, type := type, command := command, payload := payload }

/-- One well-formed sub-frame in the loop of DISPATCH (R103): by its hash only, never by its type (R62). -/
def routeSubframe (s : State) (f : Subframe) : State :=
  if f.hash = hashAlive then answerAlive s f.command
  else
    match findSlot s f.hash with
    | some (_, e) => deliverKnown s e f.type f.command f.payload
    | none => answerUnknown s f.hash f.command

/-- The loop of DISPATCH (R103). Every round adds at least 4 to `offset`, so `total` rounds are more than enough. -/
def dispatchLoop : Nat → Nat → Nat → State → Except Fault State
  | 0, _, _, s => .ok s
  | rounds + 1, offset, total, s =>
    if offset < total then
      match readRx s offset with
      | .error f => .error f
      | .ok length =>
        if sfCheckPasses offset length.toNat total then
          match fetchSubframe s offset length.toNat with
          | .error f => .error f
          | .ok sf => dispatchLoop rounds (offset + length.toNat) total (routeSubframe s sf)
        else .ok s
    else .ok s

/-- DISPATCH (R103, R109): the loop from offset 0, then one FINALIZE whose result is not returned. -/
def dispatchPacket (s : State) (total : Nat) : Except Fault State :=
  match dispatchLoop total 0 total s with
  | .error f => .error f
  | .ok t =>
    match finalizePacket t with
    | .error f => .error f
    | .ok (_, u) => .ok u

/-- COMPLETE (R91), the completion callback (R156): dispatch at once, or post the packet. -/
def completeLink (s : State) : Except Fault State :=
  match s.cfg.dispatchMode with
  | .inline => dispatchPacket s s.rxLen.toNat
  | .deferred => .ok { s with pktReady := true }

/-- A sub-frame row run alone, as one round of DISPATCH: SF_CHECK with the bytes given as the whole payload (R104), then the
hash (R103). DESIGN CHOICE, log entry 9: no FINALIZE follows, and bytes longer than RX_CAP, which no dispatch can meet (R65), are
handled as any others. -/
def presentSubframe (s : State) (length type hash command : Byte) (rest : List Byte) : State :=
  if sfCheckPasses 0 length.toNat (sfHdr + rest.length) then
    routeSubframe s { type := type, hash := hash, command := command, payload := rest.take (length.toNat - sfHdr) }
  else s

/-! ### The decoder's arms -/

/-- DEC_HEADER (R86). -/
def headerArm (s : State) (b : Byte) : Status × State :=
  if b = s.cfg.header then (.pending, { s with decState := .awaitLength }) else (.errorHeader, s)

/-- DEC_LENGTH (R87): unsigned compare with `rx_cap`. -/
def lengthArm (s : State) (b : Byte) : Status × State :=
  if b.toNat > s.rxCap.toNat then (.errorLength, { s with decState := .awaitHeader })
  else (.pending, { s with rxLen := b, cksAcc := 0, rxCursor := 0, decState := .readPayload })

/-- DEC_PAYLOAD (R88): store, CKS_STEP, advance. -/
def payloadArm (s : State) (b : Byte) : Except Fault (Status × State) :=
  match writeRx s s.rxCursor.toNat b with
  | .error f => .error f
  | .ok t => .ok (.pending, { t with cksAcc := cksStep s.cksAcc b, rxCursor := s.rxCursor + 1 })

/-- The matching outcome of DEC_CHECK (R89): re-arm first, then the completion callback, then Done. -/
def checkMatchArm (s : State) : Except Fault (Status × State) :=
  match completeLink { s with decState := .awaitHeader } with
  | .error f => .error f
  | .ok t => .ok (.done, t)

/-- The mismatching outcome of DEC_CHECK (R90). -/
def checkMismatchArm (s : State) : Status × State := (.errorChecksum, { s with decState := .awaitHeader })

/-- DEC_CHECK (R89, R90). -/
def checkArm (s : State) (b : Byte) : Except Fault (Status × State) :=
  if b = s.cksAcc then checkMatchArm s else .ok (checkMismatchArm s)

/-- The case split of DECODE_BYTE (R85). -/
def decodeArm (s : State) (b : Byte) : Except Fault (Status × State) :=
  match s.decState with
  | .awaitHeader => .ok (headerArm s b)
  | .awaitLength => .ok (lengthArm s b)
  | .readPayload => if s.rxCursor.toNat < s.rxLen.toNat then payloadArm s b else checkArm s b

/-- One received byte (R85): refused while a validated packet waits (R51, R176 (a)). -/
def deliverByte (s : State) (b : Byte) : Host.Outcome State Fault Refusal :=
  if s.pktReady then .refused .packetPending else finishStatus (decodeArm s b)

/-! ### Wire formats as byte sequences -/

/-- The bytes of a sub-frame (R61, R70 `SF(...)`). -/
def subframeBytes (f : Subframe) : List Byte :=
  [BitVec.ofNat 8 (sfHdr + f.payload.length), f.type, f.hash, f.command] ++ f.payload

/-- The bytes of a packet (R60, R70 `PKT[...]`). -/
def packetBytes (header : Byte) (payload : List Byte) : List Byte :=
  [header, BitVec.ofNat 8 payload.length] ++ payload ++ [checksum payload]

end Sys2Proof.Machine
end

