-- ==== Sys2Proof/Machine/Builder.lean ====
section
/-! DEFINITION. The meanings of 43_frame_builder.md: ADD (R120), ADD_DATA (R121), ADD_REQUEST (R122), FINALIZE (R124),
TX_SEND (R125) and BUILD (R126). -/

namespace Sys2Proof.Machine

/-- ADD (R120), for `len(payload) = n`. -/
def execAdd (type hash command : Byte) (payload : List Byte) (n : Byte) (s : State) :
    Host.Outcome State Fault Refusal :=
  if payload.length = n.toNat then finishBool (.ok (addFrame s type hash command payload n.toNat))
  else .refused .lengthMismatch

/-- ADD_DATA (R121), for `len(payload) = n` (R176 (f)). -/
def execAddData (hash command : Byte) (payload : List Byte) (n : Byte) (s : State) :
    Host.Outcome State Fault Refusal :=
  if payload.length = n.toNat then finishBool (.ok (addDataFrame s hash command payload n.toNat))
  else .refused .lengthMismatch

/-- ADD_REQUEST (R122): the type is not validated. -/
def execAddRequest (type hash command : Byte) (s : State) : Host.Outcome State Fault Refusal :=
  finishBool (.ok (addRequestFrame s type hash command))

/-- FINALIZE (R124). -/
def execFinalize (s : State) : Host.Outcome State Fault Refusal := finishBool (finalizePacket s)

/-- TX_SEND (R125): the event alone, of the packet as `tx_buf` and `tx_len` have it; no result. Run alone, with no successful
FINALIZE just before it, it does the same (DESIGN CHOICE, log entry 18); inside FINALIZE the packet is always the sealed one. -/
def execTxSend (s : State) : Host.Outcome State Fault Refusal :=
  match sendPacket s with
  | .ok t => .next (withResult t .nothing)
  | .error f => .fault f

/-- BUILD (R126): FINALIZE at the port. -/
def execBuild (s : State) : Host.Outcome State Fault Refusal := finishBool (finalizePacket s)

end Sys2Proof.Machine
end

