-- ==== Sys2Proof/Machine/Checksum.lean ====
section
/-! DEFINITION. The meanings of 40_checksum.md: CHECKSUM (R80) and CKS_STEP (R81). -/

namespace Sys2Proof.Machine

/-- CHECKSUM (R80): pure; the sum is the result. -/
def execChecksum (bytes : List Byte) (s : State) : Host.Outcome State Fault Refusal :=
  .next (withResult s (.byte (checksum bytes)))

/-- CKS_STEP (R81): writes `cks_acc` only. -/
def execCksStep (b : Byte) (s : State) : Host.Outcome State Fault Refusal :=
  .next (withResult { s with cksAcc := cksStep s.cksAcc b } .nothing)

end Sys2Proof.Machine
end

