-- ==== Sys2Proof/Machine/Decoder.lean ====
section
/-! DEFINITION. The meanings of 41_byte_decoder.md: DECODE_BYTE (R85), its arms (R86 to R90) and COMPLETE (R91). An arm
outside the state that selects it (its row's `selected_by` in the opcode table) has no meaning. Only DECODE_BYTE looks at
`pkt_ready`: an arm or COMPLETE run alone while a packet is posted, where R85 admits no decode, does as its rule says (DESIGN
CHOICE, log entry 19). -/

namespace Sys2Proof.Machine

/-- DECODE_BYTE (R85). -/
def execDecodeByte (b : Byte) (s : State) : Host.Outcome State Fault Refusal := deliverByte s b

/-- DEC_HEADER (R86), selected by `dec_state = AwaitHeader`, also while `pkt_ready = 1` (DESIGN CHOICE, log entry 19). -/
def execDecHeader (b : Byte) (s : State) : Host.Outcome State Fault Refusal :=
  if s.decState = .awaitHeader then finishStatus (.ok (headerArm s b)) else .refused .notSelected

/-- DEC_LENGTH (R87), selected by `dec_state = AwaitLength`, also while `pkt_ready = 1` (DESIGN CHOICE, log entry 19). -/
def execDecLength (b : Byte) (s : State) : Host.Outcome State Fault Refusal :=
  if s.decState = .awaitLength then finishStatus (.ok (lengthArm s b)) else .refused .notSelected

/-- DEC_PAYLOAD (R88), selected by `dec_state = ReadPayload` and `rx_cursor < rx_len`, also while `pkt_ready = 1` (DESIGN CHOICE,
log entry 19). -/
def execDecPayload (b : Byte) (s : State) : Host.Outcome State Fault Refusal :=
  if s.decState = .readPayload ∧ s.rxCursor.toNat < s.rxLen.toNat then finishStatus (payloadArm s b)
  else .refused .notSelected

/-- DEC_CHECK with a matching checksum (R89), selected by `ReadPayload`, `rx_cursor = rx_len` and `b = cks_acc`,
also while `pkt_ready = 1` (DESIGN CHOICE, log entry 19). -/
def execDecCheckMatch (b : Byte) (s : State) : Host.Outcome State Fault Refusal :=
  if s.decState = .readPayload ∧ s.rxCursor = s.rxLen ∧ b = s.cksAcc then finishStatus (checkMatchArm s)
  else .refused .notSelected

/-- DEC_CHECK with a mismatching checksum (R90), selected by `ReadPayload`, `rx_cursor = rx_len` and `b != cks_acc`,
also while `pkt_ready = 1` (DESIGN CHOICE, log entry 19). -/
def execDecCheckMismatch (b : Byte) (s : State) : Host.Outcome State Fault Refusal :=
  if s.decState = .readPayload ∧ s.rxCursor = s.rxLen ∧ b ≠ s.cksAcc then finishStatus (.ok (checkMismatchArm s))
  else .refused .notSelected

/-- COMPLETE (R91): no result of its own. R91 has `pkt_ready = 0` when it runs; run alone it does the same while `pkt_ready = 1`
(DESIGN CHOICE, log entry 19). -/
def execComplete (s : State) : Host.Outcome State Fault Refusal :=
  match completeLink s with
  | .ok t => .next (withResult t .nothing)
  | .error f => .fault f

end Sys2Proof.Machine
end

