-- ==== Sys2Proof/Machine/Link.lean ====
section
/-! DEFINITION. The meanings of 44_link_control.md: RESET (R135), DEC_RESET (R136), RUN_DISPATCH (R137), and the unassigned
select codes (R67). -/

namespace Sys2Proof.Machine

/-- RESET (R135): the values of R170, the trace among them; what the environment has queued is not the block's and stays. -/
def execReset (s : State) : Host.Outcome State Fault Refusal :=
  .next { s with decState := .awaitHeader, cksAcc := 0, rxCursor := 0, rxLen := 0,
                 rxCap := BitVec.ofNat 8 s.cfg.rxCapacity, rxBuf := [], txBuf := [(0, s.cfg.header)],
                 txCursor := hdrSize, txLen := 0, pktReady := false,
                 table := List.replicate s.cfg.tableSlots none, trace := [], result := .nothing }

/-- DEC_RESET (R136), not while `pkt_ready = 1` (R176 (a)). -/
def execDecReset (s : State) : Host.Outcome State Fault Refusal :=
  if s.pktReady then .refused .packetPending
  else .next (withResult { s with decState := .awaitHeader, cksAcc := 0, rxCursor := 0 } .nothing)

/-- RUN_DISPATCH (R137): `pkt_ready` is cleared after the dispatch. -/
def execRunDispatch (s : State) : Host.Outcome State Fault Refusal :=
  if s.pktReady then
    match dispatchPacket s s.rxLen.toNat with
    | .ok t => .next (withResult { t with pktReady := false } (.bool true))
    | .error f => .fault f
  else .next (withResult s (.bool false))

/-- A select code 0x8 to 0xF (R67): no operation, a refusal (R176 (d)). -/
def execUnassignedOp (code : BitVec 4) (_ : State) : Host.Outcome State Fault Refusal :=
  .refused (.unassignedOpcode code)

end Sys2Proof.Machine
end

