-- ==== Sys2Proof/Machine/Multiplexer.lean ====
section
/-! DEFINITION. The meanings of 42_frame_multiplexer.md: REGISTER (R100), LOOKUP (R102), DISPATCH (R103), SF_CHECK (R104),
SF_ALIVE (R105), SF_KNOWN (R106), SF_UNKNOWN (R107) and CALL_HANDLER (R108). -/

namespace Sys2Proof.Machine

/-- REGISTER (R100): no comparison with the hashes present; false when the table is full, nothing written. A null handler
is refused (R176 (e)). -/
def execRegister (hash : Byte) (handler : Option Handler) (context : Context) (s : State) :
    Host.Outcome State Fault Refusal :=
  match handler with
  | none => .refused .nullHandler
  | some h =>
    match fillFirst { hash := hash, handler := h, context := context } s.table with
    | some table => .next (withResult { s with table := table } (.bool true))
    | none => .next (withResult s (.bool false))

/-- LOOKUP (R102), for a non-zero hash: the slot index is the result; nothing is written. -/
def execLookup (hash : Byte) (s : State) : Host.Outcome State Fault Refusal :=
  if hash = hashAlive then .refused .operandOutOfRange
  else .next (withResult s (.slot ((findSlot s hash).map Prod.fst)))

/-- DISPATCH (R103), for `0 <= total <= RX_CAP`: no result. -/
def execDispatch (total : Nat) (s : State) : Host.Outcome State Fault Refusal :=
  if total ≤ s.cfg.rxCapacity then
    match dispatchPacket s total with
    | .ok t => .next (withResult t .nothing)
    | .error f => .fault f
  else .refused .operandOutOfRange

/-- SF_CHECK (R104): pure; well-formed or not is the result. -/
def execSfCheck (offset : Nat) (length : Byte) (total : Nat) (s : State) : Host.Outcome State Fault Refusal :=
  .next (withResult s (.bool (sfCheckPasses offset length.toNat total)))

/-- SF_ALIVE (R105): the append's result is ignored. -/
def execSfAlive (command : Byte) (s : State) : Host.Outcome State Fault Refusal :=
  .next (withResult (answerAlive s command) .nothing)

/-- SF_KNOWN (R106), for any occupied slot `k`, also one that LOOKUP would not return, and for a payload of any length, also above
the 251 bytes of a sub-frame (R65): DESIGN CHOICE, log entry 10. -/
def execSfKnown (slot : Nat) (type command : Byte) (payload : List Byte) (s : State) :
    Host.Outcome State Fault Refusal :=
  match s.table[slot]? with
  | some (some e) => .next (withResult (deliverKnown s e type command payload) .nothing)
  | _ => .refused .notSelected

/-- SF_UNKNOWN (R107), for a non-zero hash that LOOKUP does not find. -/
def execSfUnknown (hash command : Byte) (s : State) : Host.Outcome State Fault Refusal :=
  if hash ≠ hashAlive ∧ findSlot s hash = none then .next (withResult (answerUnknown s hash command) .nothing)
  else .refused .notSelected

/-- CALL_HANDLER (R108): the handler returns nothing to the block. A payload above the 251 bytes of a sub-frame (R65, R106) is
passed like any other: DESIGN CHOICE, log entry 10. -/
def execCallHandler (handler : Handler) (context : Context) (type command : Byte) (payload : List Byte) (s : State) :
    Host.Outcome State Fault Refusal :=
  .next (withResult (callHandler s ⟨handler, context, type, command, payload⟩) .nothing)

end Sys2Proof.Machine
end

