-- ==== Sys2Proof/Machine/Wire.lean ====
section
/-! DEFINITION. The meanings of the wire rows (R71). A packet byte is received by one DECODE_BYTE whatever the receiver's
position (R85, R94). A sub-frame row is one round of the multiplexer in a dispatch, which
handles it by its hash and never by its type (R62, R103); run alone it is without the FINALIZE that ends a dispatch (DESIGN CHOICE,
log entry 9). -/

namespace Sys2Proof.Machine

/-- Wire byte 0 (R60): the sentinel is received. -/
def execPktHeader (s : State) : Host.Outcome State Fault Refusal := deliverByte s s.cfg.header

/-- Wire byte 1 (R60): the declared length is received. -/
def execPktLength (b : Byte) (s : State) : Host.Outcome State Fault Refusal := deliverByte s b

/-- A payload byte (R60) is received. -/
def execPktPayload (b : Byte) (s : State) : Host.Outcome State Fault Refusal := deliverByte s b

/-- Wire byte 2+L (R60): the checksum is received. -/
def execPktChecksum (b : Byte) (s : State) : Host.Outcome State Fault Refusal := deliverByte s b

/-- A Data sub-frame (R62). -/
def execSfData (length hash command : Byte) (rest : List Byte) (s : State) : Host.Outcome State Fault Refusal :=
  .next (withResult (presentSubframe s length s.cfg.typeData hash command rest) .nothing)

/-- An Ack sub-frame (R62). -/
def execSfAck (length hash command : Byte) (rest : List Byte) (s : State) : Host.Outcome State Fault Refusal :=
  .next (withResult (presentSubframe s length s.cfg.typeAck hash command rest) .nothing)

/-- A Nack sub-frame (R62). -/
def execSfNack (length hash command : Byte) (rest : List Byte) (s : State) : Host.Outcome State Fault Refusal :=
  .next (withResult (presentSubframe s length s.cfg.typeNack hash command rest) .nothing)

/-- A Request sub-frame (R62). -/
def execSfRequest (length hash command : Byte) (rest : List Byte) (s : State) : Host.Outcome State Fault Refusal :=
  .next (withResult (presentSubframe s length s.cfg.typeRequest hash command rest) .nothing)

/-- An Empty sub-frame (R62): no special case (R66). -/
def execSfEmpty (length hash command : Byte) (rest : List Byte) (s : State) : Host.Outcome State Fault Refusal :=
  .next (withResult (presentSubframe s length s.cfg.typeEmpty hash command rest) .nothing)

/-- A sub-frame with hash 0 (R105). -/
def execSfClassAlive (length type command : Byte) (rest : List Byte) (s : State) : Host.Outcome State Fault Refusal :=
  .next (withResult (presentSubframe s length type hashAlive command rest) .nothing)

/-- A sub-frame of a registered hash (R106), selected by `hash != 0` and LOOKUP finding it. -/
def execSfClassRegistered (length type hash command : Byte) (rest : List Byte) (s : State) :
    Host.Outcome State Fault Refusal :=
  if hash ≠ hashAlive ∧ (findSlot s hash).isSome then
    .next (withResult (presentSubframe s length type hash command rest) .nothing)
  else .refused .notSelected

/-- A sub-frame of an unregistered hash (R107), selected by `hash != 0` and LOOKUP not finding it. -/
def execSfClassUnregistered (length type hash command : Byte) (rest : List Byte) (s : State) :
    Host.Outcome State Fault Refusal :=
  if hash ≠ hashAlive ∧ findSlot s hash = none then
    .next (withResult (presentSubframe s length type hash command rest) .nothing)
  else .refused .notSelected

end Sys2Proof.Machine
end

