-- ==== Sys2Proof/Machine/Dispatch.lean ====
section
/-! DEFINITION. The meaning of every operation: one arm per constructor of `Instr`. -/

namespace Sys2Proof.Machine

def exec (i : Instr) (s : State) : Host.Outcome State Fault Refusal :=
  match i with
  | .reset => Sys2Proof.Machine.execReset s
  | .decodeByte b => Sys2Proof.Machine.execDecodeByte b s
  | .register h hd cx => Sys2Proof.Machine.execRegister h hd cx s
  | .addData h c p n => Sys2Proof.Machine.execAddData h c p n s
  | .addRequest ty h c => Sys2Proof.Machine.execAddRequest ty h c s
  | .build => Sys2Proof.Machine.execBuild s
  | .decReset => Sys2Proof.Machine.execDecReset s
  | .runDispatch => Sys2Proof.Machine.execRunDispatch s
  | .unassignedOp code => Sys2Proof.Machine.execUnassignedOp code s
  | .checksum bs => Sys2Proof.Machine.execChecksum bs s
  | .cksStep b => Sys2Proof.Machine.execCksStep b s
  | .decHeader b => Sys2Proof.Machine.execDecHeader b s
  | .decLength b => Sys2Proof.Machine.execDecLength b s
  | .decPayload b => Sys2Proof.Machine.execDecPayload b s
  | .decCheckMatch b => Sys2Proof.Machine.execDecCheckMatch b s
  | .decCheckMismatch b => Sys2Proof.Machine.execDecCheckMismatch b s
  | .complete => Sys2Proof.Machine.execComplete s
  | .lookup h => Sys2Proof.Machine.execLookup h s
  | .dispatch total => Sys2Proof.Machine.execDispatch total s
  | .sfCheck off l total => Sys2Proof.Machine.execSfCheck off l total s
  | .sfAlive c => Sys2Proof.Machine.execSfAlive c s
  | .sfKnown k ty c p => Sys2Proof.Machine.execSfKnown k ty c p s
  | .sfUnknown h c => Sys2Proof.Machine.execSfUnknown h c s
  | .callHandler hd cx ty c p => Sys2Proof.Machine.execCallHandler hd cx ty c p s
  | .add ty h c p n => Sys2Proof.Machine.execAdd ty h c p n s
  | .finalize => Sys2Proof.Machine.execFinalize s
  | .txSend => Sys2Proof.Machine.execTxSend s
  | .pktHeader => Sys2Proof.Machine.execPktHeader s
  | .pktLength b => Sys2Proof.Machine.execPktLength b s
  | .pktPayload b => Sys2Proof.Machine.execPktPayload b s
  | .pktChecksum b => Sys2Proof.Machine.execPktChecksum b s
  | .sfData l h c rest => Sys2Proof.Machine.execSfData l h c rest s
  | .sfAck l h c rest => Sys2Proof.Machine.execSfAck l h c rest s
  | .sfNack l h c rest => Sys2Proof.Machine.execSfNack l h c rest s
  | .sfRequest l h c rest => Sys2Proof.Machine.execSfRequest l h c rest s
  | .sfEmpty l h c rest => Sys2Proof.Machine.execSfEmpty l h c rest s
  | .sfClassAlive l ty c rest => Sys2Proof.Machine.execSfClassAlive l ty c rest s
  | .sfClassRegistered l ty h c rest => Sys2Proof.Machine.execSfClassRegistered l ty h c rest s
  | .sfClassUnregistered l ty h c rest => Sys2Proof.Machine.execSfClassUnregistered l ty h c rest s

end Sys2Proof.Machine
end

