-- ==== Sys2Proof/Machine/Step.lean ====
section
/-! DEFINITION. One step (R17): take the next port operation the outside has issued, decode it and run it. The agents inside the
block run only as part of it (R16). With nothing issued the block does nothing (R164). -/

namespace Sys2Proof.Machine

/-- One port operation is one atomic transition (R17). -/
def step (s : State) : Host.Outcome State Fault Refusal :=
  match s.pending with
  | [] => .next s
  | st :: _ => exec (decodeStimulus (decodeContext s) st) (takePending s)

/-- The state with the given word of the opcode table as the next to run (log entry 8): a port operation or a received byte is
issued; a sub-frame stands in `rx_buf` as the received payload, and the port operation that dispatches it is issued. -/
def State.withFetchWord (s : State) (nbits w : Nat) : State :=
  match tableEncoding nbits w with
  | .outside st => issueFirst s st
  | .subframe bytes => holdPayload s (bytes.take s.cfg.rxCapacity)
  | .routed bytes => holdPayload s (bytes.take s.cfg.rxCapacity)

end Sys2Proof.Machine
end

