-- ==== Sys2Proof/Safety.lean ====
section
/-! DEFINITION. The terms in which claims are stated: the invariant of 10_state.md R38, what an operation leaves unchanged,
the rights of 60_exceptions.md R158, a payload as the list of its sub-frames, and a run of received bytes. -/

namespace Sys2Proof.Safety

open Sys2Proof.Machine

/-! ### What an operation leaves unchanged -/

/-- The decoder's registers and every byte of `rx_buf` read as before. -/
def SameDecoder (s t : State) : Prop :=
  t.decState = s.decState ∧ t.cksAcc = s.cksAcc ∧ t.rxCursor = s.rxCursor ∧ t.rxLen = s.rxLen ∧ t.rxCap = s.rxCap ∧
  ∀ a, t.rxBuf.read a = s.rxBuf.read a

/-- The builder's registers and every byte of `tx_buf` read as before. -/
def SameBuilder (s t : State) : Prop :=
  t.txCursor = s.txCursor ∧ t.txLen = s.txLen ∧ ∀ a, t.txBuf.read a = s.txBuf.read a

/-- The table and `pkt_ready` are as before. -/
def SameTable (s t : State) : Prop := t.table = s.table ∧ t.pktReady = s.pktReady

/-- The parameters, the operations issued, the queued answers and the count of calls are as before. -/
def SameOutside (s t : State) : Prop :=
  t.cfg = s.cfg ∧ t.pending = s.pending ∧ t.answers = s.answers ∧ t.calls = s.calls

/-- Nothing but the returned result differs. -/
def OnlyResult (s t : State) : Prop :=
  SameDecoder s t ∧ SameBuilder s t ∧ SameTable s t ∧ SameOutside s t ∧ t.trace = s.trace

/-- The given bytes were stored in `tx_buf` from the old `tx_cursor` on, the cursor advanced past them, and nothing else
but the returned result differs (R120). -/
def Appended (bytes : List Byte) (s t : State) : Prop :=
  t.txCursor = s.txCursor + bytes.length ∧
  (∀ k, k < bytes.length → t.txBuf.read (s.txCursor + k) = bytes[k]?) ∧
  (∀ a, a < s.txCursor ∨ s.txCursor + bytes.length ≤ a → t.txBuf.read a = s.txBuf.read a) ∧
  t.txLen = s.txLen ∧ SameDecoder s t ∧ SameTable s t ∧ SameOutside s t ∧ t.trace = s.trace

/-- There is room in the transmit buffer for a sub-frame of the given size (R120, R123). -/
def Room (s : State) (frameLength : Nat) : Prop := s.txCursor + frameLength ≤ s.cfg.txLimit

/-! ### What a dispatch and a finalize need to read -/

/-- `rx_buf[0 .. n)` holds the given bytes. -/
def RxHolds (s : State) (n : Nat) (bytes : List Byte) : Prop := readRxRange s 0 n = .ok bytes

/-- The accumulator holds the given sub-frame bytes: `tx_buf[HDR_SIZE .. tx_cursor)`, with the cursor in its range (R28). -/
def TxHolds (s : State) (bytes : List Byte) : Prop :=
  hdrSize ≤ s.txCursor ∧ s.txCursor ≤ s.cfg.txLimit ∧
  readTxRange s hdrSize (s.txCursor - hdrSize) = .ok bytes

/-! ### The invariant between operations -/

/-- The invariants of R38, with the form and bounds of the two buffers (R26, R27, R46), the ranges of R20 and what a posted
packet means (R30). -/
structure Inv (s : State) : Prop where
  /-- The receive buffer is in canonical form. -/
  rx_wf : s.rxBuf.wf
  /-- The transmit buffer is in canonical form. -/
  tx_wf : s.txBuf.wf
  /-- No byte is stored outside the receive buffer (R26, R47). -/
  rx_inside : ∀ c ∈ s.rxBuf, c.1 < s.cfg.rxCapacity
  /-- No byte is stored outside the transmit buffer (R27, R46, R47). -/
  tx_inside : ∀ c ∈ s.txBuf, c.1 < s.cfg.txBufSize
  /-- `rx_cap = RX_CAP` (R25). -/
  rx_cap : s.rxCap.toNat = s.cfg.rxCapacity
  /-- `rx_len <= RX_CAP` (R20). -/
  rx_len : s.rxLen.toNat ≤ s.cfg.rxCapacity
  /-- R38 (ii): in a payload, the cursor is in range and `cks_acc` is the checksum of the bytes stored. -/
  in_packet : s.decState = .readPayload →
    s.rxCursor.toNat ≤ s.rxLen.toNat ∧ ∃ bytes, RxHolds s s.rxCursor.toNat bytes ∧ s.cksAcc = checksum bytes
  /-- R38 (iii) and (iv): the cursor is in range, and what is accumulated is a sequence of whole sub-frames, each with its
  own length byte. -/
  accumulated : ∃ frames : List Subframe,
    TxHolds s (frames.flatMap subframeBytes) ∧ ∀ f ∈ frames, sfHdr + f.payload.length ≤ 255
  /-- `tx_len` is 0 or 5 to 256 (R20, R29). -/
  tx_len : s.txLen = 0 ∨ (5 ≤ s.txLen ∧ s.txLen ≤ 256)
  /-- The table has TABLE_SLOTS slots (R31). -/
  table_length : s.table.length = s.cfg.tableSlots
  /-- R38 (v), R32: the occupied slots are a prefix. -/
  table_prefix : ∃ (entries : List Entry) (free : Nat), s.table = entries.map some ++ List.replicate free none
  /-- R38 (vi), R30: a packet is posted only in Deferred mode; the decoder is then re-armed and the payload is there. -/
  posted : s.pktReady = true →
    s.cfg.dispatchMode = .deferred ∧ s.decState = .awaitHeader ∧ ∃ bytes, RxHolds s s.rxLen.toNat bytes

/-! ### Who may issue what -/

/-- The outside agents that issue operations (R16). -/
inductive Agent
  | transportRx
  | host
  | handler
  | timer
  | task
deriving DecidableEq, Repr

/-- The table of R158: the agents that may issue an operation, and whether it is barred while `pkt_ready = 1` (R176 (a)). A
packet byte on the wire is issued by TRANSPORT_RX like any DECODE_BYTE; the other rows are issued by no outside agent. -/
def rights : Instr → List Agent × Bool
  | .decodeByte _ | .pktHeader | .pktLength _ | .pktPayload _ | .pktChecksum _ => ([.transportRx], true)
  | .reset | .register _ _ _ | .build => ([.host], false)
  | .addData _ _ _ _ | .addRequest _ _ _ => ([.host, .handler], false)
  | .decReset => ([.host, .timer], true)
  | .runDispatch => ([.host, .task], false)
  | .unassignedOp _ | .checksum _ | .cksStep _ | .decHeader _ | .decLength _ | .decPayload _ | .decCheckMatch _
  | .decCheckMismatch _ | .complete | .lookup _ | .dispatch _ | .sfCheck _ _ _ | .sfAlive _ | .sfKnown _ _ _ _
  | .sfUnknown _ _ | .callHandler _ _ _ _ _ | .add _ _ _ _ _ | .finalize | .txSend | .sfData _ _ _ _
  | .sfAck _ _ _ _ | .sfNack _ _ _ _ | .sfRequest _ _ _ _ | .sfEmpty _ _ _ _ | .sfClassAlive _ _ _ _
  | .sfClassRegistered _ _ _ _ _ | .sfClassUnregistered _ _ _ _ _ => ([], false)

/-- When an operation is issued (R158): between operations, as a step is, or by a handler during its call, as the operations of
a `Script` are. -/
inductive Moment
  | between
  | duringCall
deriving DecidableEq, Repr

/-- When an agent issues operations (R16, R158): a handler "runs only when the MULTIPLEXER calls it"; every other agent between
operations. -/
def Agent.moment : Agent → Moment
  | .handler => .duringCall
  | .transportRx | .host | .timer | .task => .between

/-- Where an agent exists (R16): TASK only in Deferred mode. -/
def Agent.presentIn (cfg : Config) : Agent → Bool
  | .task => cfg.dispatchMode == .deferred
  | .transportRx | .host | .handler | .timer => true

/-- The agent may issue the operation at this moment in this state. The block cannot check who issues an operation and does not
(R158), so `step` does not read this; a claim about an environment that keeps its rights does. -/
def mayIssue (agent : Agent) (moment : Moment) (i : Instr) (s : State) : Bool :=
  decide (agent ∈ (rights i).1) && !((rights i).2 && s.pktReady) && agent.moment == moment && agent.presentIn s.cfg

/-! ### A payload as sub-frames, a run of received bytes -/

/-- The sub-frames of a payload (R61, R103, R104): the first one if it is well-formed, then those of what follows it; a
malformed one ends the list. The first argument bounds the rounds. -/
def parsePayload : Nat → List Byte → List Subframe
  | 0, _ => []
  | rounds + 1, length :: type :: hash :: command :: rest =>
    if sfHdr ≤ length.toNat ∧ length.toNat - sfHdr ≤ rest.length then
      { type := type, hash := hash, command := command, payload := rest.take (length.toNat - sfHdr) } ::
        parsePayload rounds (rest.drop (length.toNat - sfHdr))
    else []
  | _, _ => []

/-- The five sub-frame kinds (R62), each with its type code, for the same length, hash, command and following bytes. -/
def kindRows (cfg : Config) (length hash command : Byte) (rest : List Byte) : List (Byte × Instr) :=
  [(cfg.typeData, .sfData length hash command rest), (cfg.typeAck, .sfAck length hash command rest),
   (cfg.typeNack, .sfNack length hash command rest), (cfg.typeRequest, .sfRequest length hash command rest),
   (cfg.typeEmpty, .sfEmpty length hash command rest)]

/-- The row that names a parsed sub-frame by its kind (R62, R71). -/
def kindRow (ctx : DecodeContext) (f : Subframe) : Instr :=
  decodeKind ctx (BitVec.ofNat 8 (sfHdr + f.payload.length)) f.type f.hash f.command f.payload

/-- The row that names a parsed sub-frame by its dispatch class (R71, R103). -/
def classRow (ctx : DecodeContext) (f : Subframe) : Instr :=
  decodeClass ctx (BitVec.ofNat 8 (sfHdr + f.payload.length)) f.type f.hash f.command f.payload

/-- The slot index LOOKUP is to return (R102): the first occupied slot, in ascending index, whose hash is equal. -/
def firstMatch (table : List Slot) (hash : Byte) : Option Nat :=
  table.findIdx? fun slot => slot.any fun e => e.hash == hash

/-- Run operations one after the other: their results in order and the last state, or nothing if one of them has no
next state. -/
def operations (s : State) : List Instr → Option (List Result × State)
  | [] => some ([], s)
  | i :: rest =>
    match exec i s with
    | .next t => (operations t rest).map fun r => (t.result :: r.1, r.2)
    | _ => none

/-- Feed received bytes, one per DECODE_BYTE (R70 `RX(...)`). -/
def receive (s : State) (bytes : List Byte) : Option (List Result × State) := operations s (bytes.map .decodeByte)

/-- The decoder waits for a header byte and no packet is posted. -/
def Quiet (s : State) : Prop := s.decState = .awaitHeader ∧ s.pktReady = false

end Sys2Proof.Safety
end

