-- ==== Sys2Proof/Certificates/Slice0/Obligations.lean ====
section
/-! DEFINITION. The statements for the provers: what each operation does and leaves alone, and what holds of the machine as a
whole. A record update `{ s with … }` as the next state says that every field not named, both buffers and the table included,
is as before. -/

open Sys2Proof Sys2Proof.Machine Sys2Proof.Safety

/-! ### The checksum -/

/-- R80: CHECKSUM returns the sum of the bytes modulo 256, whatever their order, and writes nothing. -/
def Obligations.ChecksumIsSumModulo256 : Prop :=
  ∀ (s : Machine.State) (bytes : List Byte),
    ∃ c : Byte, exec (.checksum bytes) s = .next { s with result := .byte c } ∧
      c.toNat = (bytes.map BitVec.toNat).sum % 256 ∧
      ∀ swapped : List Byte, swapped.Perm bytes → exec (.checksum swapped) s = exec (.checksum bytes) s

/-- R81: CKS_STEP adds its byte into `cks_acc` modulo 256 and writes nothing else. -/
def Obligations.CksStepAddsModulo256 : Prop :=
  ∀ (s : Machine.State) (b : Byte),
    ∃ c : Byte, exec (.cksStep b) s = .next { s with cksAcc := c, result := .nothing } ∧
      c.toNat = (s.cksAcc.toNat + b.toNat) % 256

/-- R82, first sentence: from 0, CKS_STEP over a byte sequence leaves in `cks_acc` what CHECKSUM returns for it. -/
def Obligations.IncrementalChecksumAgrees : Prop :=
  ∀ (s : Machine.State) (bytes : List Byte), s.cksAcc = 0 →
    ∃ (rs : List Result) (t : Machine.State),
      operations s (bytes.map .cksStep) = some (rs, t) ∧
      exec (.checksum bytes) s = .next { s with result := .byte t.cksAcc } ∧
      t = { s with cksAcc := t.cksAcc, result := t.result }

/-! ### The decoder -/

/-- R86 (and DECODE_BYTE of R85 in that state, no packet posted): in AwaitHeader the sentinel moves to AwaitLength with Pending; any other byte
gives ErrorHeader and writes nothing. -/
def Obligations.HeaderByteIsAcceptedOrDropped : Prop :=
  ∀ (s : Machine.State) (b : Byte) (i : Instr), s.decState = .awaitHeader → s.pktReady = false →
    (i = .decHeader b ∨ i = .decodeByte b ∨ (i = .pktHeader ∧ b = s.cfg.header)) →
    exec i s = .next (if b = s.cfg.header then { s with decState := .awaitLength, result := .status .pending }
      else { s with result := .status .errorHeader })

/-- R87 (and DECODE_BYTE of R85 in that state, no packet posted): in AwaitLength a byte above `rx_cap` gives ErrorLength and re-arms; any other
is stored as `rx_len`, the accumulator and the cursor are zeroed, and the payload follows. -/
def Obligations.LengthByteIsCheckedAndStored : Prop :=
  ∀ (s : Machine.State) (b : Byte) (i : Instr), s.decState = .awaitLength → s.pktReady = false →
    (i = .decLength b ∨ i = .decodeByte b ∨ i = .pktLength b) →
    exec i s = .next (if s.rxCap.toNat < b.toNat
      then { s with decState := .awaitHeader, result := .status .errorLength }
      else { s with rxLen := b, cksAcc := 0, rxCursor := 0, decState := .readPayload, result := .status .pending })

/-- R88 (and DECODE_BYTE of R85 in that state, no packet posted): with `rx_cursor < rx_len` the byte is stored at `rx_buf[rx_cursor]`, added
into the accumulator, and the cursor advances; every other byte of both buffers and everything else is as before. -/
def Obligations.PayloadByteIsStoredAndSummed : Prop :=
  ∀ (s : Machine.State) (b : Byte) (i : Instr), s.decState = .readPayload → s.rxCursor.toNat < s.rxLen.toNat →
    s.rxLen.toNat ≤ s.cfg.rxCapacity → s.pktReady = false →
    (i = .decPayload b ∨ i = .decodeByte b ∨ i = .pktPayload b) →
    ∃ t : Machine.State, exec i s = .next t ∧
      t.rxBuf.read s.rxCursor.toNat = some b ∧
      (∀ a, a ≠ s.rxCursor.toNat → t.rxBuf.read a = s.rxBuf.read a) ∧
      t.cksAcc.toNat = (s.cksAcc.toNat + b.toNat) % 256 ∧
      t.rxCursor.toNat = s.rxCursor.toNat + 1 ∧
      t = { s with rxBuf := t.rxBuf, cksAcc := t.cksAcc, rxCursor := t.rxCursor, result := .status .pending }

/-- R90 (and DECODE_BYTE of R85 in that state, no packet posted): with the payload full, a byte that is not `cks_acc` gives ErrorChecksum and
re-arms, and nothing else is written: nothing is delivered, posted or appended. -/
def Obligations.WrongChecksumDeliversNothing : Prop :=
  ∀ (s : Machine.State) (b : Byte) (i : Instr), s.decState = .readPayload → s.rxCursor = s.rxLen → b ≠ s.cksAcc →
    s.pktReady = false → (i = .decCheckMismatch b ∨ i = .decodeByte b ∨ i = .pktChecksum b) →
    exec i s = .next { s with decState := .awaitHeader, result := .status .errorChecksum }

/-- R89 (and DECODE_BYTE of R85 in that state): with the payload full, a byte equal to `cks_acc` re-arms the decoder, runs
COMPLETE from the re-armed state, and returns Done; the decoder's registers and every byte of `rx_buf` are as before. -/
def Obligations.RightChecksumRunsCompletion : Prop :=
  ∀ (s : Machine.State) (b : Byte) (i : Instr), Inv s → s.decState = .readPayload → s.rxCursor = s.rxLen →
    b = s.cksAcc →
    (i = .decCheckMatch b ∨ (s.pktReady = false ∧ (i = .decodeByte b ∨ i = .pktChecksum b))) →
    ∃ u : Machine.State, exec .complete { s with decState := .awaitHeader } = .next u ∧
      exec i s = .next { u with result := .status .done } ∧
      SameDecoder { s with decState := .awaitHeader } u

/-- R91: COMPLETE dispatches `rx_len` bytes in Inline mode and only posts `pkt_ready` in Deferred mode. That it does the same run
alone while a packet is posted is the model's choice (log entry 19). -/
def Obligations.CompletionDispatchesOrPosts : Prop :=
  ∀ (s : Machine.State),
    (s.cfg.dispatchMode = .deferred → exec .complete s = .next { s with pktReady := true, result := .nothing }) ∧
    (s.cfg.dispatchMode = .inline → ∀ payload pend : List Byte, RxHolds s s.rxLen.toNat payload → TxHolds s pend →
      ∃ t : Machine.State, exec .complete s = .next t ∧ exec (.dispatch s.rxLen.toNat) s = .next t)

/-- R176 (a): while a packet is posted, no byte is decoded and the decoder is not reset. -/
def Obligations.PostedPacketRefusesDecoding : Prop :=
  ∀ (s : Machine.State) (b : Byte), s.pktReady = true →
    ∀ i ∈ [Instr.decodeByte b, .decReset, .pktHeader, .pktLength b, .pktPayload b, .pktChecksum b],
      exec i s = .refused .packetPending

/-- The model's choice (log entry 19), since R85 admits no decode then: while a packet is posted, an arm of the decoder run alone does
what it does with none posted, and leaves the packet posted; a matching checksum runs COMPLETE from the re-armed state. -/
def Obligations.DecoderArmsAloneIgnoreThePostedPacket : Prop :=
  ∀ (s t : Machine.State) (b : Byte), s.pktReady = true →
    (∀ i ∈ [Instr.decHeader b, .decLength b, .decPayload b, .decCheckMismatch b],
      exec i { s with pktReady := false } = .next t → exec i s = .next { t with pktReady := true }) ∧
    (s.decState = .readPayload → s.rxCursor = s.rxLen → b = s.cksAcc →
      exec .complete { s with decState := .awaitHeader } = .next t →
      exec (.decCheckMatch b) s = .next { t with result := .status .done })

/-- R153 and R90: a byte answered by an error status leaves the builder, the table, `pkt_ready`, the output trace and the
receive buffer as they were. -/
def Obligations.DecodeErrorsAreLocal : Prop :=
  ∀ (s t : Machine.State) (b : Byte), exec (.decodeByte b) s = .next t →
    (t.result = .status .errorHeader ∨ t.result = .status .errorLength ∨ t.result = .status .errorChecksum) →
    t = { s with decState := .awaitHeader, result := t.result }

/-- R95 (d), with its limit: bytes that are not the sentinel, received in AwaitHeader, each give ErrorHeader and change
nothing. -/
def Obligations.GarbageBeforeHeaderIsDropped : Prop :=
  ∀ (s : Machine.State) (garbage : List Byte), Quiet s → s.cfg.header ∉ garbage →
    ∃ r : Result, receive s garbage =
      some (List.replicate garbage.length (.status .errorHeader), { s with result := r })

/-- R88 over successive calls: payload bytes that do not exceed the declared length are all Pending and stand in `rx_buf` from
the old cursor on; the accumulator has their sum added; nothing else changes. -/
def Obligations.PayloadBytesAccumulate : Prop :=
  ∀ (s : Machine.State) (payload : List Byte), s.decState = .readPayload → s.pktReady = false →
    s.rxLen.toNat ≤ s.cfg.rxCapacity → s.rxCursor.toNat + payload.length ≤ s.rxLen.toNat →
    ∃ t : Machine.State, receive s payload = some (List.replicate payload.length (.status .pending), t) ∧
      t.rxCursor.toNat = s.rxCursor.toNat + payload.length ∧
      t.cksAcc.toNat = (s.cksAcc.toNat + (payload.map BitVec.toNat).sum) % 256 ∧
      (∀ k, k < payload.length → t.rxBuf.read (s.rxCursor.toNat + k) = payload[k]?) ∧
      (∀ a, a < s.rxCursor.toNat ∨ s.rxCursor.toNat + payload.length ≤ a → t.rxBuf.read a = s.rxBuf.read a) ∧
      t = { s with rxBuf := t.rxBuf, cksAcc := t.cksAcc, rxCursor := t.rxCursor, result := t.result }

/-! ### The multiplexer -/

/-- R100: REGISTER fills the lowest empty slot with the three fields and returns true, without comparing hashes; on a table
with no empty slot it returns false and writes nothing. -/
def Obligations.RegisterFillsLowestEmptySlot : Prop :=
  ∀ (s : Machine.State) (hash : Byte) (handler : Handler) (context : Context),
    (∀ (entries : List Entry) (rest : List Slot), s.table = entries.map some ++ none :: rest →
      exec (.register hash (some handler) context) s =
        .next { s with table := entries.map some ++ some ⟨hash, handler, context⟩ :: rest, result := .bool true }) ∧
    (none ∉ s.table →
      exec (.register hash (some handler) context) s = .next { s with result := .bool false })

/-- R102: LOOKUP of a non-zero hash returns the index of the first occupied slot that holds it, or none, and writes nothing. -/
def Obligations.LookupReturnsFirstMatch : Prop :=
  ∀ (s : Machine.State) (hash : Byte), hash ≠ hashAlive →
    exec (.lookup hash) s = .next { s with result := .slot (firstMatch s.table hash) }

/-- R101: once a hash is found, a later registration of anything, the same hash included, does not change what LOOKUP finds
for it. The premise on the table is R38 (v), which every step keeps. -/
def Obligations.FirstRegistrationWins : Prop :=
  ∀ (s t : Machine.State) (hash newHash : Byte) (handler : Handler) (context : Context) (k : Nat),
    (∃ (entries : List Entry) (free : Nat), s.table = entries.map some ++ List.replicate free none) →
    hash ≠ hashAlive → exec (.lookup hash) s = .next { s with result := .slot (some k) } →
    exec (.register newHash (some handler) context) s = .next t →
    exec (.lookup hash) t = .next { t with result := .slot (some k) }

/-- R101: no operation but RESET empties or changes an occupied slot. -/
def Obligations.RegistrationsStayUntilReset : Prop :=
  ∀ (i : Instr) (s t : Machine.State), i ≠ .reset → exec i s = .next t →
    ∀ (k : Nat) (e : Entry), s.table[k]? = some (some e) → t.table[k]? = some (some e)

/-- R104: SF_CHECK returns whether `length >= 4` and `offset + length <= total`, and writes nothing. -/
def Obligations.SubframeCheckBounds : Prop :=
  ∀ (s : Machine.State) (offset : Nat) (length : Byte) (total : Nat),
    exec (.sfCheck offset length total) s =
      .next { s with result := .bool (decide (4 ≤ length.toNat ∧ offset + length.toNat ≤ total)) }

/-- R103, R109: on a payload it can read, DISPATCH handles the payload's well-formed sub-frames in order, up to the first
malformed one, and then runs one FINALIZE; the decoder's registers, `rx_buf` and the table are not written. -/
def Obligations.DispatchIsFoldOverParsedPayload : Prop :=
  ∀ (s : Machine.State) (payload pend : List Byte), payload.length ≤ s.cfg.rxCapacity →
    RxHolds s payload.length payload → TxHolds s pend →
    ∃ u v : Machine.State,
      u = (parsePayload payload.length payload).foldl routeSubframe s ∧
      exec .finalize u = .next v ∧
      exec (.dispatch payload.length) s = .next { v with result := .nothing } ∧
      SameDecoder s v ∧ SameTable s v

/-- R71, R103: on a payload it can read, DISPATCH runs the decoded row of each well-formed sub-frame in order, each named by
its kind or by its class, and then one FINALIZE. So the sub-frame rows run inside the port operation that dispatches (R16). -/
def Obligations.DispatchRunsTheDecodedSubframes : Prop :=
  ∀ (s : Machine.State) (payload pend : List Byte) (row : Subframe → Instr), payload.length ≤ s.cfg.rxCapacity →
    RxHolds s payload.length payload → TxHolds s pend →
    (∀ f, row f = kindRow (decodeContext s) f ∨ row f = classRow (decodeContext s) f) →
    ∃ (rs : List Result) (u v : Machine.State),
      operations s ((parsePayload payload.length payload).map row) = some (rs, u) ∧
      exec .finalize u = .next v ∧
      exec (.dispatch payload.length) s = .next { v with result := .nothing }

/-- R103, R109: a dispatch of no byte reads nothing of `rx_buf`: it is one FINALIZE, which sends what was pending. -/
def Obligations.EmptyDispatchSendsPending : Prop :=
  ∀ (s : Machine.State),
    (s.txCursor ≤ hdrSize → exec (.dispatch 0) s = .next { s with result := .nothing }) ∧
    (∀ pend : List Byte, hdrSize < s.txCursor → TxHolds s pend →
      ∃ t : Machine.State, exec (.dispatch 0) s = .next t ∧ exec .finalize s = .next { t with result := .bool true } ∧
        t.trace = s.trace ++ [.txSend (packetBytes s.cfg.header pend)])

/-- R104: a payload whose first sub-frame is malformed is dispatched like an empty one. -/
def Obligations.MalformedSubframeEndsDispatch : Prop :=
  ∀ (s : Machine.State) (total : Nat) (length : Byte), 0 < total → total ≤ s.cfg.rxCapacity →
    readRx s 0 = .ok length → (length.toNat < sfHdr ∨ total < length.toNat) →
    exec (.dispatch total) s = exec (.dispatch 0) s

/-- R105, D12: a sub-frame with hash 0 is answered by the four bytes of an ACK that echoes its command, if they fit, and by
nothing if they do not; its kind, its body and the table do not matter. That SF_CLASS_ALIVE and the five kind rows run alone,
without the FINALIZE of a dispatch, is the model's choice (log entry 9). -/
def Obligations.AliveProbeIsAcknowledged : Prop :=
  ∀ (s : Machine.State) (length type command : Byte) (rest : List Byte) (i : Instr),
    sfHdr ≤ length.toNat → length.toNat ≤ sfHdr + rest.length →
    (i = .sfAlive command ∨ i = .sfClassAlive length type command rest ∨
      i ∈ (kindRows s.cfg length hashAlive command rest).map Prod.snd) →
    (Room s 4 → ∃ t : Machine.State, exec i s = .next t ∧ Appended [4, s.cfg.typeAck, 0, command] s t ∧
      t.result = .nothing) ∧
    (¬ Room s 4 → exec i s = .next { s with result := .nothing })

/-- R107, D12: a sub-frame with a non-zero hash that no slot holds is answered by the four bytes of a NACK with its hash and
command, if they fit, and by nothing if they do not. That SF_CLASS_UNREGISTERED and the five kind rows run alone, without the
FINALIZE of a dispatch, is the model's choice (log entry 9). -/
def Obligations.UnknownHashIsNacked : Prop :=
  ∀ (s : Machine.State) (length type hash command : Byte) (rest : List Byte) (i : Instr),
    sfHdr ≤ length.toNat → length.toNat ≤ sfHdr + rest.length →
    hash ≠ hashAlive → (∀ e, some e ∈ s.table → e.hash ≠ hash) →
    (i = .sfUnknown hash command ∨ i = .sfClassUnregistered length type hash command rest ∨
      i ∈ (kindRows s.cfg length hash command rest).map Prod.snd) →
    (Room s 4 → ∃ t : Machine.State, exec i s = .next t ∧ Appended [4, s.cfg.typeNack, hash, command] s t ∧
      t.result = .nothing) ∧
    (¬ Room s 4 → exec i s = .next { s with result := .nothing })

/-- R106: a sub-frame whose hash is first held by slot `k` is one call of that slot's handler with its context, the received
type, the command and the `length - 4` payload bytes, and nothing besides; SF_KNOWN calls the handler of whichever occupied slot
it is given. That SF_CLASS_REGISTERED and the five kind rows run alone, without the FINALIZE of a dispatch, is the model's choice
(log entry 9), and so is SF_KNOWN of a slot that LOOKUP would not return, or of more than 251 payload bytes (log entry 10). -/
def Obligations.KnownHashIsDelivered : Prop :=
  (∀ (s : Machine.State) (length type hash command : Byte) (rest : List Byte) (k : Nat) (e : Entry) (i : Instr),
    sfHdr ≤ length.toNat → length.toNat ≤ sfHdr + rest.length →
    hash ≠ hashAlive → firstMatch s.table hash = some k → s.table[k]? = some (some e) →
    (i = .sfClassRegistered length type hash command rest ∨ (type, i) ∈ kindRows s.cfg length hash command rest) →
    ∃ t : Machine.State, exec i s = .next t ∧
      exec (.callHandler e.handler e.context type command (rest.take (length.toNat - sfHdr))) s = .next t ∧
      t.trace = s.trace ++ [.call ⟨e.handler, e.context, type, command, rest.take (length.toNat - sfHdr)⟩]) ∧
  (∀ (s : Machine.State) (k : Nat) (e : Entry) (type command : Byte) (payload : List Byte), s.table[k]? = some (some e) →
    ∃ t : Machine.State, exec (.sfKnown k type command payload) s = .next t ∧
      exec (.callHandler e.handler e.context type command payload) s = .next t ∧
      t.trace = s.trace ++ [.call ⟨e.handler, e.context, type, command, payload⟩])

/-- R104: a sub-frame of any kind or class, run alone (the model's choice, log entry 9), that fails SF_CHECK changes nothing and is
answered by nothing. -/
def Obligations.MalformedSubframeIsIgnored : Prop :=
  ∀ (s : Machine.State) (length type hash command : Byte) (rest : List Byte) (i : Instr),
    (length.toNat < sfHdr ∨ sfHdr + rest.length < length.toNat) →
    ((hash = hashAlive ∧ i = .sfClassAlive length type command rest) ∨
      (hash ≠ hashAlive ∧ (∃ e, some e ∈ s.table ∧ e.hash = hash) ∧
        i = .sfClassRegistered length type hash command rest) ∨
      (hash ≠ hashAlive ∧ (∀ e, some e ∈ s.table → e.hash ≠ hash) ∧
        i = .sfClassUnregistered length type hash command rest) ∨
      i ∈ (kindRows s.cfg length hash command rest).map Prod.snd) →
    exec i s = .next { s with result := .nothing }

/-- R108, R156, R157: whatever the handler answers, a handler call is one event with its arguments, and what the handler does
is confined to the accumulator: bytes below the old cursor, the decoder, the table, `tx_len` and `pkt_ready` are as before, and
the cursor stays in its range. That the call is counted and takes one queued answer (`calls`, `answers`) is the model's own
bookkeeping (log entry 4), and so is the result `nothing` (log entry 6); that a payload of more than 251 bytes is passed like any
other is the model's choice (log entry 10). -/
def Obligations.HandlerCallTouchesOnlyAccumulator : Prop :=
  ∀ (s : Machine.State) (handler : Handler) (context : Context) (type command : Byte) (payload : List Byte),
    ∃ t : Machine.State, exec (.callHandler handler context type command payload) s = .next t ∧
      t.trace = s.trace ++ [.call ⟨handler, context, type, command, payload⟩] ∧
      t.calls = s.calls + 1 ∧ t.answers = s.answers.tail ∧ t.result = .nothing ∧
      SameDecoder s t ∧ SameTable s t ∧ t.txLen = s.txLen ∧ t.cfg = s.cfg ∧ t.pending = s.pending ∧
      s.txCursor ≤ t.txCursor ∧ (s.txCursor ≤ s.cfg.txLimit → t.txCursor ≤ s.cfg.txLimit) ∧
      ∀ a, (a < s.txCursor ∨ (t.txCursor ≤ a)) → t.txBuf.read a = s.txBuf.read a

/-- R108: a handler call runs the handler's answer from the state in which the call is in the trace: the queued one, or, with
none queued, the free value, whatever it is. The answer is applied operation by operation, each as the port operation of R121 or
R122, the next one chosen by its result, until the handler returns. The queue, the count of calls and the free value are the
model's form of the environment (log entry 4), the result `nothing` is log entry 6, and that a payload of more than 251 bytes is
passed like any other is the model's choice (log entry 10). -/
def Obligations.HandlerOperationsActAsPortOperations : Prop :=
  (∀ (s : Machine.State) (handler : Handler) (context : Context) (type command : Byte) (payload : List Byte)
      (script : Script) (rest : List Script),
    (s.answers = script :: rest ∨
      (s.answers = [] ∧ rest = [] ∧ script = Config.handlerAnswer s.calls ⟨handler, context, type, command, payload⟩)) →
    exec (.callHandler handler context type command payload) s =
      .next { runScript script { s with
          trace := s.trace ++ [.call ⟨handler, context, type, command, payload⟩]
          answers := rest
          calls := s.calls + 1 } with
        result := .nothing }) ∧
  (∀ s : Machine.State, runScript .ret s = s) ∧
  (∀ (s u : Machine.State) (op : AddOp) (i : Instr) (ok : Bool) (ifTrue ifFalse : Script),
    ((∃ hash command payload, op = .data hash command payload ∧ payload.length ≤ 255 ∧
        i = .addData hash command payload (BitVec.ofNat 8 payload.length)) ∨
      (∃ type hash command, op = .request type hash command ∧ i = .addRequest type hash command)) →
    exec i s = .next u → u.result = .bool ok →
    runScript (.add op ifTrue ifFalse) s = runScript (if ok then ifTrue else ifFalse) { u with result := s.result })

/-- R111: with room for one reply and a handler that answers nothing, a payload of a registered and an unregistered sub-frame
is one call of the registered handler with its command and payload, and one packet with one NACK of the unregistered hash. -/
def Obligations.TwoSubframesAreMultiplexed : Prop :=
  ∀ (s : Machine.State) (f1 f2 : Subframe) (e : Entry) (k : Nat) (pend : List Byte) (answers : List Script),
    sfHdr + f1.payload.length ≤ 255 → sfHdr + f2.payload.length ≤ 255 →
    (subframeBytes f1 ++ subframeBytes f2).length ≤ s.cfg.rxCapacity →
    RxHolds s (subframeBytes f1 ++ subframeBytes f2).length (subframeBytes f1 ++ subframeBytes f2) →
    TxHolds s pend → Room s 4 → s.answers = .ret :: answers →
    f1.hash ≠ hashAlive → firstMatch s.table f1.hash = some k → s.table[k]? = some (some e) →
    f2.hash ≠ hashAlive → (∀ x, some x ∈ s.table → x.hash ≠ f2.hash) →
    ∃ t : Machine.State,
      exec (.dispatch (subframeBytes f1 ++ subframeBytes f2).length) s = .next t ∧
      t.trace = s.trace ++ [.call ⟨e.handler, e.context, f1.type, f1.command, f1.payload⟩,
        .txSend (packetBytes s.cfg.header (pend ++ [4, s.cfg.typeNack, f2.hash, f2.command]))] ∧
      t.txCursor = hdrSize

/-- R111: with room for the reply, a payload of one sub-frame with hash 0 is answered by one packet whose last sub-frame is one
ACK echoing its command, whatever is registered, and by no handler call. -/
def Obligations.KeepAlivePacketIsAcknowledged : Prop :=
  ∀ (s : Machine.State) (f : Subframe) (pend : List Byte), f.hash = hashAlive → sfHdr + f.payload.length ≤ 255 →
    (subframeBytes f).length ≤ s.cfg.rxCapacity → RxHolds s (subframeBytes f).length (subframeBytes f) →
    TxHolds s pend → Room s 4 →
    ∃ t : Machine.State, exec (.dispatch (subframeBytes f).length) s = .next t ∧
      t.trace = s.trace ++ [.txSend (packetBytes s.cfg.header (pend ++ [4, s.cfg.typeAck, 0, f.command]))]

/-! ### The builder -/

/-- R120 (with ADD_DATA of R121 and ADD_REQUEST of R122, its two port forms): a frame that does not fit is answered false and
writes nothing; one that fits is answered true, its header and, for the Data type only, its payload are stored at the cursor,
and the cursor advances by `4 + n`; every byte outside the stored ones and everything else is as before. -/
def Obligations.AddStoresWhatFits : Prop :=
  ∀ (s : Machine.State) (type hash command : Byte) (payload : List Byte) (n : Byte) (i : Instr),
    payload.length = n.toNat →
    (i = .add type hash command payload n ∨ (type = s.cfg.typeData ∧ i = .addData hash command payload n) ∨
      (payload = [] ∧ i = .addRequest type hash command)) →
    (¬ Room s (4 + n.toNat) → exec i s = .next { s with result := .bool false }) ∧
    (Room s (4 + n.toNat) → ∃ t : Machine.State, exec i s = .next t ∧ t.result = .bool true ∧
      t.txCursor = s.txCursor + (4 + n.toNat) ∧
      (∃ l : Byte, t.txBuf.read s.txCursor = some l ∧ (hdrSize ≤ s.txCursor → l.toNat = 4 + n.toNat)) ∧
      t.txBuf.read (s.txCursor + 1) = some type ∧ t.txBuf.read (s.txCursor + 2) = some hash ∧
      t.txBuf.read (s.txCursor + 3) = some command ∧
      (type = s.cfg.typeData → ∀ k, k < n.toNat → t.txBuf.read (s.txCursor + 4 + k) = payload[k]?) ∧
      (type ≠ s.cfg.typeData → ∀ k, k < n.toNat →
        t.txBuf.read (s.txCursor + 4 + k) = s.txBuf.read (s.txCursor + 4 + k)) ∧
      (∀ a, a < s.txCursor ∨ s.txCursor + (4 + n.toNat) ≤ a → t.txBuf.read a = s.txBuf.read a) ∧
      t = { s with txBuf := t.txBuf, txCursor := t.txCursor, result := t.result })

/-- R122: ADD_REQUEST is ADD with a zero-length payload: the four header bytes if they fit, else false and nothing. -/
def Obligations.AddRequestStoresFourBytes : Prop :=
  ∀ (s : Machine.State) (type hash command : Byte),
    exec (.addRequest type hash command) s = exec (.add type hash command [] 0) s ∧
    (Room s 4 → ∃ t : Machine.State, exec (.addRequest type hash command) s = .next t ∧
      Appended [4, type, hash, command] s t ∧ t.result = .bool true) ∧
    (¬ Room s 4 → exec (.addRequest type hash command) s = .next { s with result := .bool false })

/-- R49 (c), R125: an accepted ADD_DATA puts its whole sub-frame after what is accumulated. -/
def Obligations.AccumulatorIsConcatenation : Prop :=
  ∀ (s : Machine.State) (hash command : Byte) (payload : List Byte) (n : Byte) (pend : List Byte),
    payload.length = n.toNat → TxHolds s pend → Room s (4 + n.toNat) →
    ∃ t : Machine.State, exec (.addData hash command payload n) s = .next t ∧ t.result = .bool true ∧
      TxHolds t (pend ++ subframeBytes ⟨s.cfg.typeData, hash, command, payload⟩)

/-- R124: with nothing accumulated FINALIZE and BUILD return false and write nothing. -/
def Obligations.FinalizeWithNothingToSend : Prop :=
  ∀ (s : Machine.State), s.txCursor ≤ hdrSize →
    ∀ i ∈ [Instr.finalize, .build], exec i s = .next { s with result := .bool false }

/-- R124, R125: with bytes accumulated FINALIZE and BUILD write the header, the length and the checksum over exactly those
bytes, record `L + 1`, reset the cursor, emit the finished packet and return true; every other byte and everything else is as
before. -/
def Obligations.FinalizeSealsAndSends : Prop :=
  ∀ (s : Machine.State) (pend : List Byte), hdrSize < s.txCursor → TxHolds s pend →
    ∀ i ∈ [Instr.finalize, .build],
    ∃ t : Machine.State, exec i s = .next t ∧
      t.txBuf.read 0 = some s.cfg.header ∧
      (∃ l : Byte, t.txBuf.read 1 = some l ∧ l.toNat = s.txCursor - hdrSize) ∧
      t.txBuf.read s.txCursor = some (checksum pend) ∧
      (∀ a, a ≠ 0 → a ≠ 1 → a ≠ s.txCursor → t.txBuf.read a = s.txBuf.read a) ∧
      t = { s with txBuf := t.txBuf, txLen := s.txCursor - hdrSize + 1, txCursor := hdrSize,
                   trace := s.trace ++ [.txSend (packetBytes s.cfg.header pend)], result := .bool true }

/-- R126: BUILD is FINALIZE at the port, and completes wherever the accumulator is readable. -/
def Obligations.BuildIsFinalize : Prop :=
  ∀ (s : Machine.State), exec .build s = exec .finalize s ∧
    ∀ pend : List Byte, TxHolds s pend → ∃ t : Machine.State, exec .build s = .next t ∧
      t.result = .bool (decide (hdrSize < s.txCursor)) ∧ t.txCursor = hdrSize

/-- R124 (c): a second BUILD right after a successful one returns false and changes nothing. -/
def Obligations.SecondBuildSendsNothing : Prop :=
  ∀ (s t : Machine.State), exec .build s = .next t → t.result = .bool true →
    exec .build t = .next { t with result := .bool false }

/-- R125: TX_SEND emits one event with the `HDR_SIZE + tx_len` bytes of `tx_buf` and writes nothing. That it does so with no
successful FINALIZE just before it is the model's choice (log entry 18). -/
def Obligations.TxSendCarriesThePacket : Prop :=
  ∀ (s : Machine.State) (bytes : List Byte), readTxRange s 0 (hdrSize + s.txLen) = .ok bytes →
    exec .txSend s = .next { s with trace := s.trace ++ [.txSend bytes], result := .nothing }

/-! ### Link control -/

/-- R135, R170: RESET leaves the values of R170 (the bytes and table fields it leaves unspecified hold no value: log entry 5; the
trace is empty: log entry 6) and does not touch what the environment has queued. -/
def Obligations.ResetLeavesTheResetValues : Prop :=
  ∀ (s : Machine.State), ∃ t : Machine.State, exec .reset s = .next t ∧
    t.decState = .awaitHeader ∧ t.cksAcc = 0 ∧ t.rxCursor = 0 ∧ t.rxLen = 0 ∧
    t.rxCap.toNat = s.cfg.rxCapacity ∧ t.pktReady = false ∧ t.txCursor = hdrSize ∧ t.txLen = 0 ∧
    t.txBuf.read 0 = some s.cfg.header ∧ (∀ a, a ≠ 0 → t.txBuf.read a = none) ∧ (∀ a, t.rxBuf.read a = none) ∧
    t.table.length = s.cfg.tableSlots ∧ (∀ slot ∈ t.table, slot = none) ∧
    t.trace = [] ∧ t.result = .nothing ∧ SameOutside s t

/-- R136: DEC_RESET, with no packet posted, re-arms the decoder and zeroes the accumulator and the cursor; nothing else. -/
def Obligations.DecoderResetRearmsOnly : Prop :=
  ∀ (s : Machine.State), s.pktReady = false →
    exec .decReset s =
      .next { s with decState := .awaitHeader, cksAcc := 0, rxCursor := 0, result := .nothing }

/-- R137: RUN_DISPATCH with nothing posted returns false and writes nothing; with a packet posted it dispatches `rx_len` bytes,
clears `pkt_ready` and returns true. -/
def Obligations.RunDispatchConsumesThePacket : Prop :=
  ∀ (s : Machine.State),
    (s.pktReady = false → exec .runDispatch s = .next { s with result := .bool false }) ∧
    (s.pktReady = true → ∀ payload pend : List Byte, RxHolds s s.rxLen.toNat payload → TxHolds s pend →
      ∃ u : Machine.State, exec (.dispatch s.rxLen.toNat) s = .next u ∧
        exec .runDispatch s = .next { u with pktReady := false, result := .bool true })

/-- R67, R176 (d), (e), (f): an unassigned select code, a null handler and a payload of the wrong length are refused. -/
def Obligations.BrokenObligationsAreRefused : Prop :=
  ∀ (s : Machine.State),
    (∀ code : BitVec 4, exec (.unassignedOp code) s = .refused (.unassignedOpcode code)) ∧
    (∀ hash context, exec (.register hash none context) s = .refused .nullHandler) ∧
    (∀ hash command payload (n : Byte), payload.length ≠ n.toNat →
      exec (.addData hash command payload n) s = .refused .lengthMismatch)

/-! ### The machine as a whole -/

/-- R16, R17: a step takes the first port operation issued and runs it, well-formed or not; with nothing issued it changes
nothing (R164). That the issued operations stand in a queue is the model's form (log entry 7). -/
def Obligations.StepRunsTheDecodedOperation : Prop :=
  ∀ (s : Machine.State),
    (s.pending = [] → Machine.step s = .next s) ∧
    (∀ (st : Stimulus) (rest : List Stimulus), s.pending = st :: rest →
      ∃ i : Instr, decode (decodeContext s) (.outside st) = .ok i ∧ (i.group = .port ∨ i = .pktHeader ∨
        ∃ b, i = .pktLength b ∨ i = .pktPayload b ∨ i = .pktChecksum b) ∧
      Machine.step s = exec i { s with pending := rest })

/-- R16, R89, R137: from a state that holds a received payload with the operation that dispatches it issued, the step is that
dispatch inside that port operation, which returns Done (Inline) or true (Deferred). How a sub-frame word of the opcode table is
put there is the model's choice (log entry 8). -/
def Obligations.StepDispatchesTheHeldPayload : Prop :=
  ∀ (s : Machine.State) (payload pend : List Byte), payload.length ≤ s.cfg.rxCapacity → TxHolds s pend →
    ∃ h u : Machine.State, RxHolds h payload.length payload ∧ SameBuilder s h ∧ h.table = s.table ∧ h.trace = s.trace ∧
      SameOutside s h ∧ exec (.dispatch payload.length) h = .next u ∧
      Machine.step (holdPayload s payload) = .next { u with
        pktReady := false
        result := match s.cfg.dispatchMode with | .inline => .status .done | .deferred => .bool true }

/-- R60, R61, R67 in the test configuration: one word of each kind of encoding is read as the operation it stands for. That bytes
short of a sub-frame's header name no operation is the model's choice (log entry 9). -/
def Obligations.WrittenWordsDecode : Prop :=
  decode tableContext (.outside (.port 0x2 { hash := 0x4D, handler := some ⟨1⟩, context := ⟨2⟩ })) =
      .ok (.register 0x4D (some ⟨1⟩) ⟨2⟩) ∧
  decode tableContext (.outside (.port 0x8 {})) = .ok (.unassignedOp 0x8) ∧
  decode tableContext (.outside (.wire 0x23)) = .ok .pktHeader ∧
  decode tableContext (.subframe [0x08, 0x44, 0x4D, 0x01, 0x2A, 0x00, 0x00, 0x00]) =
      .ok (.sfData 0x08 0x4D 0x01 [0x2A, 0x00, 0x00, 0x00]) ∧
  decode tableContext (.routed [0x04, 0x52, 0x00, 0x07]) = .ok (.sfClassAlive 0x04 0x52 0x07 []) ∧
  decode tableContext (.subframe [0x04, 0x52, 0x00]) = .error .shortSubframe

/-- R71: wherever the matching of R71 can name a well-formed operation's row, the operation has an encoding, and that encoding
is decoded as the operation with every operand. -/
def Obligations.DecodeEncodeAgree : Prop :=
  ∀ (ctx : DecodeContext) (i : Instr), i.wellFormed = true → i.selectedIn ctx = true →
    ∃ w : Encoding, encode ctx.cfg i = some w ∧ decode ctx w = .ok i

/-- R38: every step keeps the invariant. -/
def Obligations.StepKeepsTheInvariant : Prop :=
  ∀ (s t : Machine.State), Inv s → Machine.step s = .next t → Inv t

/-- R38: every operation with an encoding keeps the invariant, the sub-frame rows run alone (the model's choice, log entry 9)
included. -/
def Obligations.EncodedOperationsKeepTheInvariant : Prop :=
  ∀ (i : Instr) (s t : Machine.State), i.group ≠ .internal → Inv s → exec i s = .next t → Inv t

/-- R38: the invariant holds after reset. -/
def Obligations.ResetMeetsTheInvariant : Prop := Inv Machine.State.reset

/-- R38, R135: RESET establishes the invariant from any state, in any legal configuration. -/
def Obligations.ResetEstablishesTheInvariant : Prop :=
  ∀ (s t : Machine.State), exec .reset s = .next t → Inv t

/-- R19, R16, R171: an operation that an agent may issue at its moment, with operands in their ranges, completes in every state
that meets the invariant: no fault, no refusal. -/
def Obligations.AdmittedOperationsComplete : Prop :=
  ∀ (s : Machine.State) (agent : Agent) (moment : Moment) (i : Instr), Inv s → mayIssue agent moment i s = true →
    i.wellFormed = true → ∃ t : Machine.State, exec i s = .next t

/-- R82: a packet that BUILD emits, fed byte by byte to a link with the same HEADER whose RX_CAP is at least its length, gives
Pending for every byte but the last, Done for the last, and stands in that link's receive buffer. -/
def Obligations.PacketRoundTrip : Prop :=
  ∀ (s r : Machine.State) (pend : List Byte), hdrSize < s.txCursor → TxHolds s pend →
    Inv r → Quiet r → r.cfg.header = s.cfg.header → pend.length ≤ r.cfg.rxCapacity →
    ∃ (t u : Machine.State) (packet : List Byte),
      exec .build s = .next t ∧ t.trace = s.trace ++ [.txSend packet] ∧
      receive r packet = some (List.replicate (pend.length + 2) (.status .pending) ++ [.status .done], u) ∧
      u.rxLen.toNat = pend.length ∧ RxHolds u pend.length pend ∧ u.decState = .awaitHeader

/-- R83: a packet with one payload byte in which one bit is flipped, the checksum byte left as it was, ends in ErrorChecksum,
and nothing is delivered: the trace, the builder, the table and `pkt_ready` are as before. -/
def Obligations.FlippedPayloadBitIsDetected : Prop :=
  ∀ (r : Machine.State) (before after : List Byte) (b : Byte) (bit : Nat), Inv r → Quiet r → bit < 8 →
    (before ++ b :: after).length ≤ r.cfg.rxCapacity →
    ∃ u : Machine.State,
      receive r ([r.cfg.header, BitVec.ofNat 8 (before ++ b :: after).length] ++
          (before ++ (b ^^^ BitVec.twoPow 8 bit) :: after) ++ [checksum (before ++ b :: after)]) =
        some (List.replicate ((before ++ b :: after).length + 2) (.status .pending) ++ [.status .errorChecksum], u) ∧
      u.decState = .awaitHeader ∧ u.trace = r.trace ∧ SameBuilder r u ∧ SameTable r u

/-- R35: the output trace only grows, at its end, by every operation but RESET. -/
def Obligations.TraceOnlyGrows : Prop :=
  ∀ (i : Instr) (s t : Machine.State), i ≠ .reset → exec i s = .next t → ∃ events, t.trace = s.trace ++ events

/-- R26, R50: every byte of `rx_buf` reads as before after any operation but RESET and those that deliver a byte. -/
def Obligations.ReceiveBufferIsTheDecoders : Prop :=
  ∀ (i : Instr) (s t : Machine.State), exec i s = .next t →
    (∃ a, t.rxBuf.read a ≠ s.rxBuf.read a) →
    i = .reset ∨ i = .pktHeader ∨
      ∃ b, i = .decodeByte b ∨ i = .decPayload b ∨ i = .pktLength b ∨ i = .pktPayload b ∨ i = .pktChecksum b

/-- R25, R39: no operation writes the parameters or, RESET apart, `rx_cap`; none touches what the environment has issued. -/
def Obligations.ParametersAreConstant : Prop :=
  ∀ (i : Instr) (s t : Machine.State), exec i s = .next t →
    t.cfg = s.cfg ∧ t.pending = s.pending ∧ (i ≠ .reset → t.rxCap = s.rxCap)
end

