-- ==== Sys2Proof/Laws/State.lean ====
section
/-! SUPPORT. What each field is after each named update of the state. -/

namespace Sys2Proof.Machine

@[simp] theorem withResult_cfg (s : State) (r : Result) : (withResult s r).cfg = s.cfg := rfl
@[simp] theorem withResult_decState (s : State) (r : Result) : (withResult s r).decState = s.decState := rfl
@[simp] theorem withResult_cksAcc (s : State) (r : Result) : (withResult s r).cksAcc = s.cksAcc := rfl
@[simp] theorem withResult_rxCursor (s : State) (r : Result) : (withResult s r).rxCursor = s.rxCursor := rfl
@[simp] theorem withResult_rxLen (s : State) (r : Result) : (withResult s r).rxLen = s.rxLen := rfl
@[simp] theorem withResult_rxCap (s : State) (r : Result) : (withResult s r).rxCap = s.rxCap := rfl
@[simp] theorem withResult_rxBuf (s : State) (r : Result) : (withResult s r).rxBuf = s.rxBuf := rfl
@[simp] theorem withResult_txBuf (s : State) (r : Result) : (withResult s r).txBuf = s.txBuf := rfl
@[simp] theorem withResult_txCursor (s : State) (r : Result) : (withResult s r).txCursor = s.txCursor := rfl
@[simp] theorem withResult_txLen (s : State) (r : Result) : (withResult s r).txLen = s.txLen := rfl
@[simp] theorem withResult_pktReady (s : State) (r : Result) : (withResult s r).pktReady = s.pktReady := rfl
@[simp] theorem withResult_table (s : State) (r : Result) : (withResult s r).table = s.table := rfl
@[simp] theorem withResult_trace (s : State) (r : Result) : (withResult s r).trace = s.trace := rfl
@[simp] theorem withResult_result (s : State) (r : Result) : (withResult s r).result = r := rfl
@[simp] theorem withResult_pending (s : State) (r : Result) : (withResult s r).pending = s.pending := rfl
@[simp] theorem withResult_answers (s : State) (r : Result) : (withResult s r).answers = s.answers := rfl
@[simp] theorem withResult_calls (s : State) (r : Result) : (withResult s r).calls = s.calls := rfl

@[simp] theorem emit_cfg (s : State) (e : Event) : (emit s e).cfg = s.cfg := rfl
@[simp] theorem emit_decState (s : State) (e : Event) : (emit s e).decState = s.decState := rfl
@[simp] theorem emit_cksAcc (s : State) (e : Event) : (emit s e).cksAcc = s.cksAcc := rfl
@[simp] theorem emit_rxCursor (s : State) (e : Event) : (emit s e).rxCursor = s.rxCursor := rfl
@[simp] theorem emit_rxLen (s : State) (e : Event) : (emit s e).rxLen = s.rxLen := rfl
@[simp] theorem emit_rxCap (s : State) (e : Event) : (emit s e).rxCap = s.rxCap := rfl
@[simp] theorem emit_rxBuf (s : State) (e : Event) : (emit s e).rxBuf = s.rxBuf := rfl
@[simp] theorem emit_txBuf (s : State) (e : Event) : (emit s e).txBuf = s.txBuf := rfl
@[simp] theorem emit_txCursor (s : State) (e : Event) : (emit s e).txCursor = s.txCursor := rfl
@[simp] theorem emit_txLen (s : State) (e : Event) : (emit s e).txLen = s.txLen := rfl
@[simp] theorem emit_pktReady (s : State) (e : Event) : (emit s e).pktReady = s.pktReady := rfl
@[simp] theorem emit_table (s : State) (e : Event) : (emit s e).table = s.table := rfl
@[simp] theorem emit_trace (s : State) (e : Event) : (emit s e).trace = s.trace ++ [e] := rfl
@[simp] theorem emit_result (s : State) (e : Event) : (emit s e).result = s.result := rfl
@[simp] theorem emit_pending (s : State) (e : Event) : (emit s e).pending = s.pending := rfl
@[simp] theorem emit_answers (s : State) (e : Event) : (emit s e).answers = s.answers := rfl
@[simp] theorem emit_calls (s : State) (e : Event) : (emit s e).calls = s.calls := rfl

@[simp] theorem enterHandler_cfg (s : State) (c : HandlerCall) : (enterHandler s c).cfg = s.cfg := rfl
@[simp] theorem enterHandler_decState (s : State) (c : HandlerCall) : (enterHandler s c).decState = s.decState := rfl
@[simp] theorem enterHandler_cksAcc (s : State) (c : HandlerCall) : (enterHandler s c).cksAcc = s.cksAcc := rfl
@[simp] theorem enterHandler_rxCursor (s : State) (c : HandlerCall) : (enterHandler s c).rxCursor = s.rxCursor := rfl
@[simp] theorem enterHandler_rxLen (s : State) (c : HandlerCall) : (enterHandler s c).rxLen = s.rxLen := rfl
@[simp] theorem enterHandler_rxCap (s : State) (c : HandlerCall) : (enterHandler s c).rxCap = s.rxCap := rfl
@[simp] theorem enterHandler_rxBuf (s : State) (c : HandlerCall) : (enterHandler s c).rxBuf = s.rxBuf := rfl
@[simp] theorem enterHandler_txBuf (s : State) (c : HandlerCall) : (enterHandler s c).txBuf = s.txBuf := rfl
@[simp] theorem enterHandler_txCursor (s : State) (c : HandlerCall) : (enterHandler s c).txCursor = s.txCursor := rfl
@[simp] theorem enterHandler_txLen (s : State) (c : HandlerCall) : (enterHandler s c).txLen = s.txLen := rfl
@[simp] theorem enterHandler_pktReady (s : State) (c : HandlerCall) : (enterHandler s c).pktReady = s.pktReady := rfl
@[simp] theorem enterHandler_table (s : State) (c : HandlerCall) : (enterHandler s c).table = s.table := rfl
@[simp] theorem enterHandler_trace (s : State) (c : HandlerCall) : (enterHandler s c).trace = s.trace ++ [.call c] := rfl
@[simp] theorem enterHandler_result (s : State) (c : HandlerCall) : (enterHandler s c).result = s.result := rfl
@[simp] theorem enterHandler_pending (s : State) (c : HandlerCall) : (enterHandler s c).pending = s.pending := rfl
@[simp] theorem enterHandler_answers (s : State) (c : HandlerCall) : (enterHandler s c).answers = s.answers.tail := rfl
@[simp] theorem enterHandler_calls (s : State) (c : HandlerCall) : (enterHandler s c).calls = s.calls + 1 := rfl

@[simp] theorem sealPacket_cfg (s : State) (n : Nat) (b : Byte) : (sealPacket s n b).cfg = s.cfg := rfl
@[simp] theorem sealPacket_decState (s : State) (n : Nat) (b : Byte) : (sealPacket s n b).decState = s.decState := rfl
@[simp] theorem sealPacket_cksAcc (s : State) (n : Nat) (b : Byte) : (sealPacket s n b).cksAcc = s.cksAcc := rfl
@[simp] theorem sealPacket_rxCursor (s : State) (n : Nat) (b : Byte) : (sealPacket s n b).rxCursor = s.rxCursor := rfl
@[simp] theorem sealPacket_rxLen (s : State) (n : Nat) (b : Byte) : (sealPacket s n b).rxLen = s.rxLen := rfl
@[simp] theorem sealPacket_rxCap (s : State) (n : Nat) (b : Byte) : (sealPacket s n b).rxCap = s.rxCap := rfl
@[simp] theorem sealPacket_rxBuf (s : State) (n : Nat) (b : Byte) : (sealPacket s n b).rxBuf = s.rxBuf := rfl
@[simp] theorem sealPacket_txBuf (s : State) (n : Nat) (b : Byte) : (sealPacket s n b).txBuf = ((s.txBuf.write 0 s.cfg.header).write 1 (BitVec.ofNat 8 n)).write s.txCursor b := rfl
@[simp] theorem sealPacket_txCursor (s : State) (n : Nat) (b : Byte) : (sealPacket s n b).txCursor = hdrSize := rfl
@[simp] theorem sealPacket_txLen (s : State) (n : Nat) (b : Byte) : (sealPacket s n b).txLen = n + 1 := rfl
@[simp] theorem sealPacket_pktReady (s : State) (n : Nat) (b : Byte) : (sealPacket s n b).pktReady = s.pktReady := rfl
@[simp] theorem sealPacket_table (s : State) (n : Nat) (b : Byte) : (sealPacket s n b).table = s.table := rfl
@[simp] theorem sealPacket_trace (s : State) (n : Nat) (b : Byte) : (sealPacket s n b).trace = s.trace := rfl
@[simp] theorem sealPacket_result (s : State) (n : Nat) (b : Byte) : (sealPacket s n b).result = s.result := rfl
@[simp] theorem sealPacket_pending (s : State) (n : Nat) (b : Byte) : (sealPacket s n b).pending = s.pending := rfl
@[simp] theorem sealPacket_answers (s : State) (n : Nat) (b : Byte) : (sealPacket s n b).answers = s.answers := rfl
@[simp] theorem sealPacket_calls (s : State) (n : Nat) (b : Byte) : (sealPacket s n b).calls = s.calls := rfl

@[simp] theorem takePending_cfg (s : State) : (takePending s).cfg = s.cfg := rfl
@[simp] theorem takePending_decState (s : State) : (takePending s).decState = s.decState := rfl
@[simp] theorem takePending_cksAcc (s : State) : (takePending s).cksAcc = s.cksAcc := rfl
@[simp] theorem takePending_rxCursor (s : State) : (takePending s).rxCursor = s.rxCursor := rfl
@[simp] theorem takePending_rxLen (s : State) : (takePending s).rxLen = s.rxLen := rfl
@[simp] theorem takePending_rxCap (s : State) : (takePending s).rxCap = s.rxCap := rfl
@[simp] theorem takePending_rxBuf (s : State) : (takePending s).rxBuf = s.rxBuf := rfl
@[simp] theorem takePending_txBuf (s : State) : (takePending s).txBuf = s.txBuf := rfl
@[simp] theorem takePending_txCursor (s : State) : (takePending s).txCursor = s.txCursor := rfl
@[simp] theorem takePending_txLen (s : State) : (takePending s).txLen = s.txLen := rfl
@[simp] theorem takePending_pktReady (s : State) : (takePending s).pktReady = s.pktReady := rfl
@[simp] theorem takePending_table (s : State) : (takePending s).table = s.table := rfl
@[simp] theorem takePending_trace (s : State) : (takePending s).trace = s.trace := rfl
@[simp] theorem takePending_result (s : State) : (takePending s).result = s.result := rfl
@[simp] theorem takePending_pending (s : State) : (takePending s).pending = s.pending.tail := rfl
@[simp] theorem takePending_answers (s : State) : (takePending s).answers = s.answers := rfl
@[simp] theorem takePending_calls (s : State) : (takePending s).calls = s.calls := rfl

@[simp] theorem issueFirst_cfg (s : State) (st : Stimulus) : (issueFirst s st).cfg = s.cfg := rfl
@[simp] theorem issueFirst_decState (s : State) (st : Stimulus) : (issueFirst s st).decState = s.decState := rfl
@[simp] theorem issueFirst_cksAcc (s : State) (st : Stimulus) : (issueFirst s st).cksAcc = s.cksAcc := rfl
@[simp] theorem issueFirst_rxCursor (s : State) (st : Stimulus) : (issueFirst s st).rxCursor = s.rxCursor := rfl
@[simp] theorem issueFirst_rxLen (s : State) (st : Stimulus) : (issueFirst s st).rxLen = s.rxLen := rfl
@[simp] theorem issueFirst_rxCap (s : State) (st : Stimulus) : (issueFirst s st).rxCap = s.rxCap := rfl
@[simp] theorem issueFirst_rxBuf (s : State) (st : Stimulus) : (issueFirst s st).rxBuf = s.rxBuf := rfl
@[simp] theorem issueFirst_txBuf (s : State) (st : Stimulus) : (issueFirst s st).txBuf = s.txBuf := rfl
@[simp] theorem issueFirst_txCursor (s : State) (st : Stimulus) : (issueFirst s st).txCursor = s.txCursor := rfl
@[simp] theorem issueFirst_txLen (s : State) (st : Stimulus) : (issueFirst s st).txLen = s.txLen := rfl
@[simp] theorem issueFirst_pktReady (s : State) (st : Stimulus) : (issueFirst s st).pktReady = s.pktReady := rfl
@[simp] theorem issueFirst_table (s : State) (st : Stimulus) : (issueFirst s st).table = s.table := rfl
@[simp] theorem issueFirst_trace (s : State) (st : Stimulus) : (issueFirst s st).trace = s.trace := rfl
@[simp] theorem issueFirst_result (s : State) (st : Stimulus) : (issueFirst s st).result = s.result := rfl
@[simp] theorem issueFirst_pending (s : State) (st : Stimulus) : (issueFirst s st).pending = st :: s.pending := rfl
@[simp] theorem issueFirst_answers (s : State) (st : Stimulus) : (issueFirst s st).answers = s.answers := rfl
@[simp] theorem issueFirst_calls (s : State) (st : Stimulus) : (issueFirst s st).calls = s.calls := rfl

@[simp] theorem holdPayload_cfg (s : State) (p : List Byte) : (holdPayload s p).cfg = s.cfg := by
  unfold holdPayload; split <;> rfl
@[simp] theorem holdPayload_rxCap (s : State) (p : List Byte) : (holdPayload s p).rxCap = s.rxCap := by
  unfold holdPayload; split <;> rfl
@[simp] theorem holdPayload_txBuf (s : State) (p : List Byte) : (holdPayload s p).txBuf = s.txBuf := by
  unfold holdPayload; split <;> rfl
@[simp] theorem holdPayload_txCursor (s : State) (p : List Byte) : (holdPayload s p).txCursor = s.txCursor := by
  unfold holdPayload; split <;> rfl
@[simp] theorem holdPayload_txLen (s : State) (p : List Byte) : (holdPayload s p).txLen = s.txLen := by
  unfold holdPayload; split <;> rfl
@[simp] theorem holdPayload_table (s : State) (p : List Byte) : (holdPayload s p).table = s.table := by
  unfold holdPayload; split <;> rfl
@[simp] theorem holdPayload_trace (s : State) (p : List Byte) : (holdPayload s p).trace = s.trace := by
  unfold holdPayload; split <;> rfl
@[simp] theorem holdPayload_result (s : State) (p : List Byte) : (holdPayload s p).result = s.result := by
  unfold holdPayload; split <;> rfl
@[simp] theorem holdPayload_answers (s : State) (p : List Byte) : (holdPayload s p).answers = s.answers := by
  unfold holdPayload; split <;> rfl
@[simp] theorem holdPayload_calls (s : State) (p : List Byte) : (holdPayload s p).calls = s.calls := by
  unfold holdPayload; split <;> rfl
@[simp] theorem holdPayload_rxLen (s : State) (p : List Byte) : (holdPayload s p).rxLen = BitVec.ofNat 8 p.length := by
  unfold holdPayload; split <;> rfl
@[simp] theorem holdPayload_rxBuf (s : State) (p : List Byte) : (holdPayload s p).rxBuf = s.rxBuf.writeAll 0 p := by
  unfold holdPayload; split <;> rfl

end Sys2Proof.Machine
end

