-- ==== Sys2Proof/Laws/Memory.lean ====
section
/-! SUPPORT. The laws of a byte buffer: what a read gives after a write, the canonical form is kept, and when a range of a
buffer can be read. -/

namespace Sys2Proof.Machine

theorem Memory.read_write_same (m : Memory) (a : Nat) (v : Byte) : (m.write a v).read a = some v := by
  induction m with
  | nil => simp [Memory.write, Memory.read]
  | cons c rest ih =>
    obtain ⟨x, b⟩ := c
    by_cases h1 : a < x
    · simp [Memory.write, Memory.read, h1]
    · by_cases h2 : a = x
      · simp [Memory.write, Memory.read, h2]
      · simp [Memory.write, Memory.read, h1, h2, ih]

theorem Memory.read_write_other (m : Memory) {a x : Nat} (v : Byte) (h : x ≠ a) :
    (m.write a v).read x = m.read x := by
  induction m with
  | nil => simp [Memory.write, Memory.read, h]
  | cons c rest ih =>
    obtain ⟨y, b⟩ := c
    by_cases h1 : a < y
    · simp [Memory.write, Memory.read, h1, h]
    · by_cases h2 : a = y
      · subst h2
        simp [Memory.write, Memory.read, h]
      · by_cases h3 : x = y
        · simp [Memory.write, Memory.read, h1, h2, h3]
        · simp [Memory.write, Memory.read, h1, h2, h3, ih]

theorem Memory.read_write (m : Memory) (a x : Nat) (v : Byte) :
    (m.write a v).read x = if x = a then some v else m.read x := by
  split
  · next h => subst h; exact Memory.read_write_same m x v
  · next h => exact Memory.read_write_other m v h

/-- A byte sequence written from `a` on is read back there, and every other index is left alone. -/
theorem Memory.read_writeAll (m : Memory) (a : Nat) (bytes : List Byte) (x : Nat) :
    (m.writeAll a bytes).read x = if a ≤ x ∧ x < a + bytes.length then bytes[x - a]? else m.read x := by
  induction bytes generalizing m a with
  | nil =>
    simp only [Memory.writeAll, List.length_nil, Nat.add_zero]
    split
    · omega
    · rfl
  | cons b rest ih =>
    simp only [Memory.writeAll, ih, Memory.read_write, List.length_cons]
    by_cases h1 : x = a
    · subst h1
      have : ¬(x + 1 ≤ x) := by omega
      simp [this]
    · by_cases h2 : a + 1 ≤ x ∧ x < a + 1 + rest.length
      · have h3 : a ≤ x ∧ x < a + (rest.length + 1) := by omega
        have h4 : x - a = (x - (a + 1)) + 1 := by omega
        simp [h2, h3, h4]
      · have h3 : ¬(a ≤ x ∧ x < a + (rest.length + 1)) := by omega
        rw [if_neg h2, if_neg h3, if_neg h1]

theorem Memory.mem_write {m : Memory} {a : Nat} {v : Byte} {c : Host.Cell} (h : c ∈ m.write a v) :
    c = (a, v) ∨ c ∈ m := by
  induction m with
  | nil => simpa [Memory.write] using h
  | cons d rest ih =>
    obtain ⟨y, b⟩ := d
    unfold Memory.write at h
    split at h
    · simpa using h
    · split at h
      · rcases List.mem_cons.mp h with h | h
        · exact .inl h
        · exact .inr (List.mem_cons_of_mem _ h)
      · rcases List.mem_cons.mp h with h | h
        · exact .inr (h ▸ List.mem_cons_self)
        · exact (ih h).imp id (List.mem_cons_of_mem _)

theorem Memory.mem_writeAll {m : Memory} {a : Nat} {bytes : List Byte} {c : Host.Cell}
    (h : c ∈ m.writeAll a bytes) : (a ≤ c.1 ∧ c.1 < a + bytes.length) ∨ c ∈ m := by
  induction bytes generalizing m a with
  | nil => exact .inr h
  | cons b rest ih =>
    rcases ih h with h | h
    · left
      simp only [List.length_cons]
      omega
    · rcases Memory.mem_write h with h | h
      · left
        subst h
        simp
      · exact .inr h

/-- A write keeps the canonical form. -/
theorem Memory.wf_write {m : Memory} (h : m.wf) (a : Nat) (v : Byte) : (m.write a v).wf := by
  induction m with
  | nil => simp [Memory.write, Memory.wf]
  | cons d rest ih =>
    obtain ⟨y, b⟩ := d
    obtain ⟨hy, hr⟩ := List.pairwise_cons.mp h
    unfold Memory.write
    split
    · next h1 =>
      refine List.pairwise_cons.mpr ⟨fun c hc => ?_, h⟩
      rcases List.mem_cons.mp hc with hc | hc
      · exact hc ▸ h1
      · exact Nat.lt_trans h1 (hy c hc)
    · next h1 =>
      split
      · next h2 => exact List.pairwise_cons.mpr ⟨fun c hc => h2 ▸ hy c hc, hr⟩
      · next h2 =>
        refine List.pairwise_cons.mpr ⟨fun c hc => ?_, ih hr⟩
        rcases Memory.mem_write hc with hc | hc
        · subst hc
          show y < a
          omega
        · exact hy c hc

/-- Writing a byte sequence keeps the canonical form. -/
theorem Memory.wf_writeAll {m : Memory} (h : m.wf) (a : Nat) (bytes : List Byte) : (m.writeAll a bytes).wf := by
  induction bytes generalizing m a with
  | nil => exact h
  | cons b rest ih => exact ih (Memory.wf_write h a b) (a + 1)

/-! ### Ranges -/

theorem readRx_eq_ok {s : State} {i : Nat} {b : Byte} :
    readRx s i = .ok b ↔ i < s.cfg.rxCapacity ∧ s.rxBuf.read i = some b := by
  unfold readRx
  split
  · next h => cases hr : s.rxBuf.read i <;> simp [h]
  · next h => simp [h]

theorem readTx_eq_ok {s : State} {i : Nat} {b : Byte} :
    readTx s i = .ok b ↔ i < s.cfg.txBufSize ∧ s.txBuf.read i = some b := by
  unfold readTx
  split
  · next h => cases hr : s.txBuf.read i <;> simp [h]
  · next h => simp [h]

/-- A range of `rx_buf` reads as a byte sequence exactly when each of its bytes is in the buffer and written. -/
theorem readRxRange_eq_ok {s : State} {a n : Nat} {bytes : List Byte} :
    readRxRange s a n = .ok bytes ↔
      bytes.length = n ∧ ∀ k, k < n → a + k < s.cfg.rxCapacity ∧ s.rxBuf.read (a + k) = bytes[k]? := by
  induction n generalizing a bytes with
  | zero =>
    simp only [readRxRange, Except.ok.injEq]
    exact ⟨fun h => by simp [← h], fun h => (List.length_eq_zero_iff.mp h.1).symm⟩
  | succ n ih =>
    constructor
    · intro h
      rw [readRxRange] at h
      cases hb : readRx s a with
      | error f => simp [hb] at h
      | ok b =>
        cases hr : readRxRange s (a + 1) n with
        | error f => simp [hb, hr] at h
        | ok bs =>
          simp only [hb, hr, Except.ok.injEq] at h
          subst h
          obtain ⟨h1, h2⟩ := ih.mp hr
          obtain ⟨h3, h4⟩ := readRx_eq_ok.mp hb
          refine ⟨by simp [h1], fun k hk => ?_⟩
          cases k with
          | zero => simpa using ⟨h3, h4⟩
          | succ k => simpa [Nat.add_assoc, Nat.add_comm 1 k] using h2 k (by omega)
    · rintro ⟨h1, h2⟩
      cases bytes with
      | nil => simp at h1
      | cons b bs =>
        have hb : readRx s a = .ok b := readRx_eq_ok.mpr (by simpa using h2 0 (by omega))
        have hr : readRxRange s (a + 1) n = .ok bs :=
          ih.mpr ⟨by simpa using h1, fun k hk => by
            simpa [Nat.add_assoc, Nat.add_comm 1 k] using h2 (k + 1) (by omega)⟩
        simp [readRxRange, hb, hr]

/-- A range of `tx_buf` reads as a byte sequence exactly when each of its bytes is in the buffer and written. -/
theorem readTxRange_eq_ok {s : State} {a n : Nat} {bytes : List Byte} :
    readTxRange s a n = .ok bytes ↔
      bytes.length = n ∧ ∀ k, k < n → a + k < s.cfg.txBufSize ∧ s.txBuf.read (a + k) = bytes[k]? := by
  induction n generalizing a bytes with
  | zero =>
    simp only [readTxRange, Except.ok.injEq]
    exact ⟨fun h => by simp [← h], fun h => (List.length_eq_zero_iff.mp h.1).symm⟩
  | succ n ih =>
    constructor
    · intro h
      rw [readTxRange] at h
      cases hb : readTx s a with
      | error f => simp [hb] at h
      | ok b =>
        cases hr : readTxRange s (a + 1) n with
        | error f => simp [hb, hr] at h
        | ok bs =>
          simp only [hb, hr, Except.ok.injEq] at h
          subst h
          obtain ⟨h1, h2⟩ := ih.mp hr
          obtain ⟨h3, h4⟩ := readTx_eq_ok.mp hb
          refine ⟨by simp [h1], fun k hk => ?_⟩
          cases k with
          | zero => simpa using ⟨h3, h4⟩
          | succ k => simpa [Nat.add_assoc, Nat.add_comm 1 k] using h2 k (by omega)
    · rintro ⟨h1, h2⟩
      cases bytes with
      | nil => simp at h1
      | cons b bs =>
        have hb : readTx s a = .ok b := readTx_eq_ok.mpr (by simpa using h2 0 (by omega))
        have hr : readTxRange s (a + 1) n = .ok bs :=
          ih.mpr ⟨by simpa using h1, fun k hk => by
            simpa [Nat.add_assoc, Nat.add_comm 1 k] using h2 (k + 1) (by omega)⟩
        simp [readTxRange, hb, hr]

/-- Reads of `rx_buf` depend on the capacity and the buffer alone. -/
theorem readRxRange_congr {s t : State} (hc : t.cfg = s.cfg) (hb : t.rxBuf = s.rxBuf) (a n : Nat) :
    readRxRange t a n = readRxRange s a n := by
  have h1 : ∀ i, readRx t i = readRx s i := fun i => by unfold readRx; rw [hc, hb]
  induction n generalizing a with
  | zero => rfl
  | succ n ih => simp only [readRxRange, h1, ih]

/-- Reads of `tx_buf` depend on the capacity and the buffer alone. -/
theorem readTxRange_congr {s t : State} (hc : t.cfg = s.cfg) (hb : t.txBuf = s.txBuf) (a n : Nat) :
    readTxRange t a n = readTxRange s a n := by
  have h1 : ∀ i, readTx t i = readTx s i := fun i => by unfold readTx; rw [hc, hb]
  induction n generalizing a with
  | zero => rfl
  | succ n ih => simp only [readTxRange, h1, ih]

end Sys2Proof.Machine
end

