-- ==== Sys2Proof/Laws/Builder.lean ====
section
/-! SUPPORT. What the builder's operations can do: ADD (R120), a handler's sequence of ADDs (R108), FINALIZE (R124). -/

namespace Sys2Proof.Machine

/-- The state with bytes stored at the cursor and the cursor advanced past them. -/
def appendBytes (s : State) (bytes : List Byte) : State :=
  { s with txBuf := s.txBuf.writeAll s.txCursor bytes, txCursor := s.txCursor + bytes.length }

@[simp] theorem appendBytes_cfg (s : State) (bytes : List Byte) : (appendBytes s bytes).cfg = s.cfg := rfl
@[simp] theorem appendBytes_decState (s : State) (bytes : List Byte) : (appendBytes s bytes).decState = s.decState := rfl
@[simp] theorem appendBytes_cksAcc (s : State) (bytes : List Byte) : (appendBytes s bytes).cksAcc = s.cksAcc := rfl
@[simp] theorem appendBytes_rxCursor (s : State) (bytes : List Byte) : (appendBytes s bytes).rxCursor = s.rxCursor := rfl
@[simp] theorem appendBytes_rxLen (s : State) (bytes : List Byte) : (appendBytes s bytes).rxLen = s.rxLen := rfl
@[simp] theorem appendBytes_rxCap (s : State) (bytes : List Byte) : (appendBytes s bytes).rxCap = s.rxCap := rfl
@[simp] theorem appendBytes_rxBuf (s : State) (bytes : List Byte) : (appendBytes s bytes).rxBuf = s.rxBuf := rfl
@[simp] theorem appendBytes_txBuf (s : State) (bytes : List Byte) : (appendBytes s bytes).txBuf = s.txBuf.writeAll s.txCursor bytes := rfl
@[simp] theorem appendBytes_txCursor (s : State) (bytes : List Byte) : (appendBytes s bytes).txCursor = s.txCursor + bytes.length := rfl
@[simp] theorem appendBytes_txLen (s : State) (bytes : List Byte) : (appendBytes s bytes).txLen = s.txLen := rfl
@[simp] theorem appendBytes_pktReady (s : State) (bytes : List Byte) : (appendBytes s bytes).pktReady = s.pktReady := rfl
@[simp] theorem appendBytes_table (s : State) (bytes : List Byte) : (appendBytes s bytes).table = s.table := rfl
@[simp] theorem appendBytes_trace (s : State) (bytes : List Byte) : (appendBytes s bytes).trace = s.trace := rfl
@[simp] theorem appendBytes_result (s : State) (bytes : List Byte) : (appendBytes s bytes).result = s.result := rfl
@[simp] theorem appendBytes_pending (s : State) (bytes : List Byte) : (appendBytes s bytes).pending = s.pending := rfl
@[simp] theorem appendBytes_answers (s : State) (bytes : List Byte) : (appendBytes s bytes).answers = s.answers := rfl
@[simp] theorem appendBytes_calls (s : State) (bytes : List Byte) : (appendBytes s bytes).calls = s.calls := rfl

theorem Memory.writeAll_append (m : Memory) (a : Nat) (x y : List Byte) :
    (m.writeAll a x).writeAll (a + x.length) y = m.writeAll a (x ++ y) := by
  induction x generalizing m a with
  | nil => rfl
  | cons b rest ih =>
    simp only [Memory.writeAll, List.cons_append, List.length_cons]
    rw [← ih, Nat.add_assoc, Nat.add_comm 1]

theorem appendBytes_nil (s : State) : appendBytes s [] = s := rfl

/-- Two appends are one append of both byte sequences (R120 (g)). -/
theorem appendBytes_append (s : State) (x y : List Byte) :
    appendBytes (appendBytes s x) y = appendBytes s (x ++ y) := by
  simp [appendBytes, Memory.writeAll_append, Nat.add_assoc]

/-- After an append the accumulator reads as what it held followed by the bytes (R125). -/
theorem readTxRange_appendBytes {s : State} {pend bytes : List Byte} (h2 : hdrSize ≤ s.txCursor)
    (hr : readTxRange s hdrSize (s.txCursor - hdrSize) = .ok pend)
    (hle : s.txCursor + bytes.length ≤ s.cfg.txLimit) :
    readTxRange (appendBytes s bytes) hdrSize (s.txCursor + bytes.length - hdrSize) = .ok (pend ++ bytes) := by
  obtain ⟨hl, hg⟩ := readTxRange_eq_ok.mp hr
  refine readTxRange_eq_ok.mpr ⟨by simp; omega, fun k hk => ⟨?_, ?_⟩⟩
  · simp only [appendBytes_cfg, Config.txBufSize]
    omega
  · simp only [appendBytes_txBuf, Memory.read_writeAll]
    by_cases hk2 : k < s.txCursor - hdrSize
    · rw [if_neg (by omega), (hg k hk2).2, List.getElem?_append_left (by omega)]
    · rw [if_pos (by omega), List.getElem?_append_right (by omega), hl]
      congr 1
      omega

/-- ADD with a whole payload stores a sub-frame: its bytes are those of R61. -/
theorem addBytes_eq_subframeBytes (cfg : Config) (type hash command : Byte) (payload : List Byte)
    (h : type = cfg.typeData ∨ payload = []) :
    addBytes cfg type hash command payload payload.length =
      subframeBytes { type := type, hash := hash, command := command, payload := payload } := by
  unfold addBytes subframeBytes
  rcases h with h | h
  · simp [h]
  · subst h
    simp

theorem subframeBytes_length (f : Subframe) : (subframeBytes f).length = sfHdr + f.payload.length := by
  simp [subframeBytes, sfHdr]
  omega

/-- ADD with a whole payload either has no room and changes nothing, or appends the sub-frame (R120). -/
theorem addFrame_whole (s : State) (type hash command : Byte) (payload : List Byte)
    (h : type = s.cfg.typeData ∨ payload = []) :
    addFrame s type hash command payload payload.length =
      if s.txCursor + (sfHdr + payload.length) ≤ s.cfg.txLimit then
        (true, appendBytes s (subframeBytes ⟨type, hash, command, payload⟩))
      else (false, s) := by
  have hb := addBytes_eq_subframeBytes s.cfg type hash command payload h
  have hl := subframeBytes_length ⟨type, hash, command, payload⟩
  unfold addFrame appendBytes
  rw [hb]
  by_cases hr : s.txCursor + (sfHdr + payload.length) ≤ s.cfg.txLimit
  · rw [if_neg (by omega), if_pos hr, hl]
  · rw [if_pos (by omega), if_neg hr]

/-- `t` is `s` with whole sub-frames appended that fit: all that ADD_DATA and ADD_REQUEST can do to the state. -/
def Appends (s t : State) : Prop :=
  ∃ frames : List Subframe, t = appendBytes s (frames.flatMap subframeBytes) ∧
    (s.txCursor ≤ s.cfg.txLimit → t.txCursor ≤ s.cfg.txLimit) ∧
    (hdrSize ≤ s.txCursor → ∀ f ∈ frames, sfHdr + f.payload.length ≤ 255)

theorem Appends.refl (s : State) : Appends s s := ⟨[], rfl, id, fun _ _ h => by cases h⟩

theorem Appends.trans {s t u : State} (h : Appends s t) (g : Appends t u) : Appends s u := by
  obtain ⟨f1, rfl, hr1, hf1⟩ := h
  obtain ⟨f2, rfl, hr2, hf2⟩ := g
  refine ⟨f1 ++ f2, by rw [appendBytes_append, List.flatMap_append], fun hr => hr2 (hr1 hr), fun h2 f hf => ?_⟩
  rcases List.mem_append.mp hf with hf | hf
  · exact hf1 h2 f hf
  · exact hf2 (Nat.le_trans h2 (Nat.le_add_right _ _)) f hf

theorem addFrame_appends (s : State) (type hash command : Byte) (payload : List Byte)
    (h : type = s.cfg.typeData ∨ payload = []) :
    Appends s (addFrame s type hash command payload payload.length).2 := by
  rw [addFrame_whole s type hash command payload h]
  split
  · next hr =>
    refine ⟨[⟨type, hash, command, payload⟩], by simp, fun _ => ?_, fun h2 f hf => ?_⟩
    · rw [appendBytes_txCursor, subframeBytes_length]
      exact hr
    · obtain rfl := List.mem_singleton.mp hf
      have hok := s.cfg.ok
      simp only [Params.inRange, Bool.and_eq_true, decide_eq_true_eq] at hok
      simp only [hdrSize] at h2 hok ⊢
      omega
  · exact Appends.refl s

theorem runAddOp_appends (s : State) (op : AddOp) : Appends s (runAddOp s op).2 := by
  cases op with
  | data hash command payload => exact addFrame_appends s _ _ _ _ (.inl rfl)
  | request type hash command => exact addFrame_appends s type hash command [] (.inr rfl)

/-- Whatever a handler answers, it appends whole sub-frames and does nothing else (R108, R50). -/
theorem runScript_appends (script : Script) (s : State) : Appends s (runScript script s) := by
  induction script generalizing s with
  | ret => exact Appends.refl s
  | add op a b iha ihb =>
    have h := runAddOp_appends s op
    simp only [runScript]
    rcases hr : runAddOp s op with ⟨_ | _, t⟩ <;> rw [hr] at h
    · exact h.trans (ihb t)
    · exact h.trans (iha t)

/-- The event of TX_SEND carries the bytes of the range it can read (R125). -/
theorem sendPacket_eq_ok {s t : State} :
    sendPacket s = .ok t ↔ ∃ bytes, readTxRange s 0 (hdrSize + s.txLen) = .ok bytes ∧ t = emit s (.txSend bytes) := by
  unfold sendPacket
  cases readTxRange s 0 (hdrSize + s.txLen) <;> simp [eq_comm]

/-- FINALIZE with nothing accumulated (R124). -/
theorem finalizePacket_nothing {s : State} (h : s.txCursor ≤ hdrSize) : finalizePacket s = .ok (false, s) := by
  unfold finalizePacket
  rw [if_neg (by omega)]

/-- A sealed packet reads back as header, length, accumulated bytes, checksum (R46, R60). -/
theorem readTxRange_sealPacket {s : State} {bytes : List Byte} (hlt : hdrSize < s.txCursor)
    (hle : s.txCursor ≤ s.cfg.txLimit)
    (hr : readTxRange s hdrSize (s.txCursor - hdrSize) = .ok bytes) (sum : Byte) :
    readTxRange (sealPacket s (s.txCursor - hdrSize) sum) 0 (hdrSize + (s.txCursor - hdrSize + 1)) =
      .ok ([s.cfg.header, BitVec.ofNat 8 bytes.length] ++ bytes ++ [sum]) := by
  obtain ⟨hlen, hget⟩ := readTxRange_eq_ok.mp hr
  simp only [hdrSize] at hlt hlen hget ⊢
  refine readTxRange_eq_ok.mpr ⟨by simp [hlen]; omega, fun k hk => ⟨?_, ?_⟩⟩
  · simp only [sealPacket_cfg, Config.txBufSize]
    omega
  · simp only [sealPacket_txBuf, Memory.read_write, Nat.zero_add, ← hlen]
    rcases Nat.lt_or_ge k 2 with h2 | h2
    · have h0 : k = 0 ∨ k = 1 := by omega
      rcases h0 with rfl | rfl
      · have h0 : ¬(0 = s.txCursor) := by omega
        simp [h0]
      · have h1 : ¬(1 = s.txCursor) := by omega
        simp [h1]
    · obtain ⟨j, rfl⟩ : ∃ j, k = j + 2 := ⟨k - 2, by omega⟩
      rcases Nat.lt_or_ge j bytes.length with hj | hj
      · have h1 : ¬(j + 2 = s.txCursor) := by omega
        have := (hget j (by omega)).2
        rw [Nat.add_comm] at this
        simp [h1, this, List.getElem?_append_left hj]
      · have h1 : j = bytes.length := by omega
        have h3 : j + 2 = s.txCursor := by omega
        rw [if_pos h3]
        simp [h1]

/-- FINALIZE with a readable accumulator (R124, R125): it seals the packet and sends it. -/
theorem finalizePacket_sends {s : State} {bytes : List Byte} (hlt : hdrSize < s.txCursor)
    (hle : s.txCursor ≤ s.cfg.txLimit)
    (hr : readTxRange s hdrSize (s.txCursor - hdrSize) = .ok bytes) :
    finalizePacket s = .ok (true, emit (sealPacket s (s.txCursor - hdrSize) (checksum bytes))
      (.txSend (packetBytes s.cfg.header bytes))) := by
  have hs : s.txCursor < s.cfg.txBufSize := by
    simp only [Config.txBufSize]
    omega
  have hp : sendPacket (sealPacket s (s.txCursor - hdrSize) (checksum bytes)) =
      .ok (emit (sealPacket s (s.txCursor - hdrSize) (checksum bytes))
        (.txSend (packetBytes s.cfg.header bytes))) :=
    sendPacket_eq_ok.mpr ⟨_, readTxRange_sealPacket hlt hle hr _, rfl⟩
  unfold finalizePacket
  rw [if_pos hlt, hr]
  simp only [if_pos hs, hp]

end Sys2Proof.Machine
end

