-- ==== Sys2Proof/Laws/Multiplexer.lean ====
section
/-! SUPPORT. What the multiplexer's operations can do: the table scans (R100, R102), one sub-frame (R103), the dispatch loop. -/

namespace Sys2Proof.Machine

/-! ### The table -/

/-- REGISTER's scan fills the lowest empty slot of a table whose earlier slots are occupied (R100). -/
theorem fillFirst_occupied_append (e : Entry) (entries : List Entry) (rest : List Slot) :
    fillFirst e (entries.map some ++ none :: rest) = some (entries.map some ++ some e :: rest) := by
  induction entries with
  | nil => rfl
  | cons x xs ih => simp [fillFirst, ih]

/-- REGISTER's scan fails exactly on a table with no empty slot (R100). -/
theorem fillFirst_eq_none {e : Entry} {table : List Slot} :
    fillFirst e table = none ↔ none ∉ table := by
  induction table with
  | nil => simp [fillFirst]
  | cons x xs ih => cases x <;> simp [fillFirst, ih]

/-- Where REGISTER's scan succeeds it changed one slot, which was empty; all before it are occupied (R100). -/
theorem fillFirst_eq_some {e : Entry} {table table' : List Slot} (h : fillFirst e table = some table') :
    ∃ (entries : List Entry) (rest : List Slot),
      table = entries.map some ++ none :: rest ∧ table' = entries.map some ++ some e :: rest := by
  induction table generalizing table' with
  | nil => simp [fillFirst] at h
  | cons x xs ih =>
    cases x with
    | none =>
      simp only [fillFirst, Option.some.injEq] at h
      exact ⟨[], xs, rfl, h.symm⟩
    | some x =>
      cases hx : fillFirst e xs with
      | none => simp [fillFirst, hx] at h
      | some ys =>
        simp only [fillFirst, hx, Option.map_some, Option.some.injEq] at h
        obtain ⟨entries, rest, h1, h2⟩ := ih hx
        exact ⟨x :: entries, rest, by simp [h1], by simp [← h, h2]⟩

/-- LOOKUP's scan misses exactly where no occupied slot has the hash (R102). -/
theorem findFrom_eq_none {hash : Byte} {k : Nat} {table : List Slot} :
    findFrom hash k table = none ↔ ∀ e, some e ∈ table → e.hash ≠ hash := by
  induction table generalizing k with
  | nil => simp [findFrom]
  | cons x xs ih =>
    cases x with
    | none => simp [findFrom, ih]
    | some x =>
      by_cases h : x.hash = hash
      · simp only [findFrom, h, if_true]
        constructor
        · intro hn
          cases hn
        · intro ha
          exact absurd h (ha x List.mem_cons_self)
      · simp [findFrom, h, ih]

/-- What LOOKUP's scan finds stands in the slot it names and has the hash (R102). -/
theorem findFrom_eq_some {hash : Byte} {k j : Nat} {e : Entry} {table : List Slot}
    (h : findFrom hash k table = some (j, e)) : k ≤ j ∧ table[j - k]? = some (some e) ∧ e.hash = hash := by
  induction table generalizing k with
  | nil => simp [findFrom] at h
  | cons x xs ih =>
    have step : ∀ h' : findFrom hash (k + 1) xs = some (j, e),
        k ≤ j ∧ (x :: xs)[j - k]? = some (some e) ∧ e.hash = hash := by
      intro h'
      obtain ⟨h1, h2, h3⟩ := ih h'
      refine ⟨by omega, ?_, h3⟩
      rw [show j - k = (j - (k + 1)) + 1 by omega]
      simpa using h2
    cases x with
    | none => exact step h
    | some x =>
      by_cases hx : x.hash = hash
      · simp only [findFrom, hx, if_true, Option.some.injEq, Prod.mk.injEq] at h
        obtain ⟨rfl, rfl⟩ := h
        simpa using hx
      · simp only [findFrom, hx, if_false] at h
        exact step h

theorem findSlot_eq_none {s : State} {hash : Byte} :
    findSlot s hash = none ↔ ∀ e, some e ∈ s.table → e.hash ≠ hash := findFrom_eq_none

theorem findSlot_mem {s : State} {hash : Byte} {j : Nat} {e : Entry} (h : findSlot s hash = some (j, e)) :
    s.table[j]? = some (some e) ∧ e.hash = hash := (findFrom_eq_some h).2

/-! ### One sub-frame -/

/-- The state with whole sub-frames appended and handler calls made: all that a dispatch's iteration can do to the state. -/
def routed (s : State) (bytes : List Byte) (calls : List HandlerCall) : State :=
  { appendBytes s bytes with trace := s.trace ++ calls.map .call, answers := s.answers.drop calls.length,
                             calls := s.calls + calls.length }

@[simp] theorem routed_cfg (s : State) (bytes : List Byte) (calls : List HandlerCall) :
    (routed s bytes calls).cfg = s.cfg := rfl
@[simp] theorem routed_decState (s : State) (bytes : List Byte) (calls : List HandlerCall) :
    (routed s bytes calls).decState = s.decState := rfl
@[simp] theorem routed_cksAcc (s : State) (bytes : List Byte) (calls : List HandlerCall) :
    (routed s bytes calls).cksAcc = s.cksAcc := rfl
@[simp] theorem routed_rxCursor (s : State) (bytes : List Byte) (calls : List HandlerCall) :
    (routed s bytes calls).rxCursor = s.rxCursor := rfl
@[simp] theorem routed_rxLen (s : State) (bytes : List Byte) (calls : List HandlerCall) :
    (routed s bytes calls).rxLen = s.rxLen := rfl
@[simp] theorem routed_rxCap (s : State) (bytes : List Byte) (calls : List HandlerCall) :
    (routed s bytes calls).rxCap = s.rxCap := rfl
@[simp] theorem routed_rxBuf (s : State) (bytes : List Byte) (calls : List HandlerCall) :
    (routed s bytes calls).rxBuf = s.rxBuf := rfl
@[simp] theorem routed_txBuf (s : State) (bytes : List Byte) (calls : List HandlerCall) :
    (routed s bytes calls).txBuf = s.txBuf.writeAll s.txCursor bytes := rfl
@[simp] theorem routed_txCursor (s : State) (bytes : List Byte) (calls : List HandlerCall) :
    (routed s bytes calls).txCursor = s.txCursor + bytes.length := rfl
@[simp] theorem routed_txLen (s : State) (bytes : List Byte) (calls : List HandlerCall) :
    (routed s bytes calls).txLen = s.txLen := rfl
@[simp] theorem routed_pktReady (s : State) (bytes : List Byte) (calls : List HandlerCall) :
    (routed s bytes calls).pktReady = s.pktReady := rfl
@[simp] theorem routed_table (s : State) (bytes : List Byte) (calls : List HandlerCall) :
    (routed s bytes calls).table = s.table := rfl
@[simp] theorem routed_trace (s : State) (bytes : List Byte) (calls : List HandlerCall) :
    (routed s bytes calls).trace = s.trace ++ calls.map .call := rfl
@[simp] theorem routed_result (s : State) (bytes : List Byte) (calls : List HandlerCall) :
    (routed s bytes calls).result = s.result := rfl
@[simp] theorem routed_pending (s : State) (bytes : List Byte) (calls : List HandlerCall) :
    (routed s bytes calls).pending = s.pending := rfl
@[simp] theorem routed_answers (s : State) (bytes : List Byte) (calls : List HandlerCall) :
    (routed s bytes calls).answers = s.answers.drop calls.length := rfl
@[simp] theorem routed_calls (s : State) (bytes : List Byte) (calls : List HandlerCall) :
    (routed s bytes calls).calls = s.calls + calls.length := rfl

/-- `t` is `s` with whole sub-frames appended that fit and handler calls made (R103, R110). -/
def Routed (s t : State) : Prop :=
  ∃ (frames : List Subframe) (calls : List HandlerCall), t = routed s (frames.flatMap subframeBytes) calls ∧
    (s.txCursor ≤ s.cfg.txLimit → t.txCursor ≤ s.cfg.txLimit) ∧
    (hdrSize ≤ s.txCursor → ∀ f ∈ frames, sfHdr + f.payload.length ≤ 255)

theorem routed_nil (s : State) : routed s [] [] = s := by
  simp [routed, appendBytes_nil]

theorem routed_routed (s : State) (x y : List Byte) (c d : List HandlerCall) :
    routed (routed s x c) y d = routed s (x ++ y) (c ++ d) := by
  simp [routed, appendBytes, Memory.writeAll_append, Nat.add_assoc]

theorem Routed.refl (s : State) : Routed s s :=
  ⟨[], [], (routed_nil s).symm, id, fun _ _ h => by cases h⟩

theorem Routed.trans {s t u : State} (h : Routed s t) (g : Routed t u) : Routed s u := by
  obtain ⟨f1, c1, rfl, hr1, hf1⟩ := h
  obtain ⟨f2, c2, rfl, hr2, hf2⟩ := g
  refine ⟨f1 ++ f2, c1 ++ c2, by rw [routed_routed, List.flatMap_append], fun hr => hr2 (hr1 hr), fun h2 f hf => ?_⟩
  rcases List.mem_append.mp hf with hf | hf
  · exact hf1 h2 f hf
  · exact hf2 (Nat.le_trans h2 (Nat.le_add_right _ _)) f hf

theorem Appends.routed {s t : State} (h : Appends s t) : Routed s t := by
  obtain ⟨f, rfl, hr, hf⟩ := h
  exact ⟨f, [], by simp [Machine.routed, appendBytes], hr, hf⟩

/-- A handler call is in the trace; what the handler does is confined to the accumulator (R108, R156, R157). -/
theorem callHandler_eq (s : State) (c : HandlerCall) :
    ∃ frames : List Subframe, callHandler s c = routed s (frames.flatMap subframeBytes) [c] ∧
      (s.txCursor ≤ s.cfg.txLimit → (callHandler s c).txCursor ≤ s.cfg.txLimit) ∧
      (hdrSize ≤ s.txCursor → ∀ f ∈ frames, sfHdr + f.payload.length ≤ 255) := by
  obtain ⟨frames, h, hr, hf⟩ := runScript_appends (handlerScript s c) (enterHandler s c)
  refine ⟨frames, ?_, hr, hf⟩
  unfold callHandler
  rw [h]
  simp [routed, appendBytes, enterHandler, emit]

theorem callHandler_routed (s : State) (c : HandlerCall) : Routed s (callHandler s c) := by
  obtain ⟨frames, h, hr, hf⟩ := callHandler_eq s c
  exact ⟨frames, [c], h, hr, hf⟩

theorem answerAlive_routed (s : State) (command : Byte) : Routed s (answerAlive s command) :=
  (addFrame_appends s _ _ _ [] (.inr rfl)).routed

theorem answerUnknown_routed (s : State) (hash command : Byte) : Routed s (answerUnknown s hash command) :=
  (addFrame_appends s _ _ _ [] (.inr rfl)).routed

theorem routeSubframe_routed (s : State) (f : Subframe) : Routed s (routeSubframe s f) := by
  unfold routeSubframe
  split
  · exact answerAlive_routed s _
  · split
    · exact callHandler_routed s _
    · exact answerUnknown_routed s _ _

theorem presentSubframe_routed (s : State) (length type hash command : Byte) (rest : List Byte) :
    Routed s (presentSubframe s length type hash command rest) := by
  unfold presentSubframe
  split
  · exact routeSubframe_routed s _
  · exact Routed.refl s

/-- The dispatch loop appends whole sub-frames and makes handler calls, nothing else (R103). -/
theorem dispatchLoop_routed {rounds offset total : Nat} {s t : State}
    (h : dispatchLoop rounds offset total s = .ok t) : Routed s t := by
  induction rounds generalizing offset s with
  | zero =>
    simp only [dispatchLoop, Except.ok.injEq] at h
    exact h ▸ Routed.refl s
  | succ rounds ih =>
    unfold dispatchLoop at h
    split at h
    · split at h
      · cases h
      · split at h
        · split at h
          · cases h
          · exact (routeSubframe_routed s _).trans (ih h)
        · simp only [Except.ok.injEq] at h
          exact h ▸ Routed.refl s
    · simp only [Except.ok.injEq] at h
      exact h ▸ Routed.refl s

/-- A sub-frame whose bytes are readable is fetched as those bytes (R44). -/
theorem fetchSubframe_eq_ok {s : State} {offset length : Nat} {type hash command : Byte} {payload : List Byte}
    (ht : readRx s (offset + 1) = .ok type) (hh : readRx s (offset + 2) = .ok hash)
    (hc : readRx s (offset + 3) = .ok command)
    (hp : readRxRange s (offset + sfHdr) (length - sfHdr) = .ok payload) :
    fetchSubframe s offset length = .ok { type := type, hash := hash, command := command, payload := payload } := by
  unfold fetchSubframe
  rw [ht, hh, hc, hp]
  rfl

/-- A posted or matching packet is dispatched by the loop, then one FINALIZE (R103, R109). -/
theorem dispatchPacket_eq_ok {s u : State} {total : Nat} :
    dispatchPacket s total = .ok u ↔
      ∃ t sent, dispatchLoop total 0 total s = .ok t ∧ finalizePacket t = .ok (sent, u) := by
  unfold dispatchPacket
  cases h : dispatchLoop total 0 total s with
  | error f => simp
  | ok t =>
    cases h2 : finalizePacket t with
    | error f => simp [h2]
    | ok p =>
      obtain ⟨b, v⟩ := p
      cases b <;> simp [h2]

/-! ### The returned result is never read -/

theorem addFrame_withResult (s : State) (r : Result) (type hash command : Byte) (payload : List Byte) (n : Nat) :
    addFrame (withResult s r) type hash command payload n =
      ((addFrame s type hash command payload n).1, withResult (addFrame s type hash command payload n).2 r) := by
  unfold addFrame
  by_cases h : s.txCursor + (sfHdr + n) > s.cfg.txLimit
  · rw [if_pos h]
    exact if_pos h
  · rw [if_neg h]
    exact if_neg h

theorem runAddOp_withResult (s : State) (r : Result) (op : AddOp) :
    runAddOp (withResult s r) op = ((runAddOp s op).1, withResult (runAddOp s op).2 r) := by
  cases op <;> exact addFrame_withResult s r _ _ _ _ _

theorem runScript_withResult (script : Script) (s : State) (r : Result) :
    runScript script (withResult s r) = withResult (runScript script s) r := by
  induction script generalizing s with
  | ret => rfl
  | add op ifTrue ifFalse ihTrue ihFalse =>
    simp only [runScript, runAddOp_withResult]
    rcases runAddOp s op with ⟨_ | _, t⟩
    · exact ihFalse t
    · exact ihTrue t

theorem callHandler_withResult (s : State) (r : Result) (c : HandlerCall) :
    callHandler (withResult s r) c = withResult (callHandler s c) r :=
  runScript_withResult (handlerScript s c) (enterHandler s c) r

/-- Handling a sub-frame neither reads nor writes what the last operation returned (R34). -/
theorem routeSubframe_withResult (s : State) (r : Result) (f : Subframe) :
    routeSubframe (withResult s r) f = withResult (routeSubframe s f) r := by
  have hf : findSlot (withResult s r) f.hash = findSlot s f.hash := rfl
  unfold routeSubframe
  rw [hf]
  split
  · exact congrArg Prod.snd (addFrame_withResult s r _ _ _ _ _)
  · split
    · exact callHandler_withResult s r _
    · exact congrArg Prod.snd (addFrame_withResult s r _ _ _ _ _)

/-- TX_SEND neither reads nor writes what the last operation returned (R34). -/
theorem sendPacket_withResult (s : State) (r : Result) :
    sendPacket (withResult s r) = (sendPacket s).map (withResult · r) := by
  unfold sendPacket
  rw [readTxRange_congr (s := s) (t := withResult s r) rfl rfl, withResult_txLen]
  cases readTxRange s 0 (hdrSize + s.txLen) <;> rfl

/-- FINALIZE neither reads nor writes what the last operation returned (R34). -/
theorem finalizePacket_withResult (s : State) (r : Result) :
    finalizePacket (withResult s r) = (finalizePacket s).map fun p => (p.1, withResult p.2 r) := by
  unfold finalizePacket
  by_cases h : hdrSize < s.txCursor
  · rw [if_pos h, if_pos (show hdrSize < (withResult s r).txCursor from h),
      readTxRange_congr (s := s) (t := withResult s r) rfl rfl, withResult_txCursor]
    cases readTxRange s hdrSize (s.txCursor - hdrSize) with
    | error f => rfl
    | ok bytes =>
      by_cases g : s.txCursor < s.cfg.txBufSize
      · have hs := sendPacket_withResult (sealPacket s (s.txCursor - hdrSize) (checksum bytes)) r
        simp only [if_pos g, if_pos (show s.txCursor < (withResult s r).cfg.txBufSize from g)]
        rw [show sealPacket (withResult s r) (s.txCursor - hdrSize) (checksum bytes) =
          withResult (sealPacket s (s.txCursor - hdrSize) (checksum bytes)) r from rfl, hs]
        cases sendPacket (sealPacket s (s.txCursor - hdrSize) (checksum bytes)) <;> rfl
      · simp only [if_neg g, if_neg (show ¬ s.txCursor < (withResult s r).cfg.txBufSize from g)]
        rfl
  · rw [if_neg h, if_neg (show ¬ hdrSize < (withResult s r).txCursor from h)]
    rfl

end Sys2Proof.Machine
end

