-- ==== Sys2Proof/Laws/PerInstr.lean ====
section
/-! SUPPORT. One lemma per operation: it has an encoding exactly when its row is not an internal one (R67, R71). -/

namespace Sys2Proof.Laws.HasEncoding

/-- The operation has an encoding exactly when its group has one. -/
def Statement (i : Instr) : Prop := ∀ cfg : Config, (encode cfg i).isSome = (i.group != .internal)

theorem reset : Statement (.reset) := fun _ => rfl
theorem decodeByte : ∀ b, Statement (.decodeByte b) := fun _ _ => rfl
theorem register : ∀ h hd cx, Statement (.register h hd cx) := fun _ _ _ _ => rfl
theorem addData : ∀ h c p n, Statement (.addData h c p n) := fun _ _ _ _ _ => rfl
theorem addRequest : ∀ ty h c, Statement (.addRequest ty h c) := fun _ _ _ _ => rfl
theorem build : Statement (.build) := fun _ => rfl
theorem decReset : Statement (.decReset) := fun _ => rfl
theorem runDispatch : Statement (.runDispatch) := fun _ => rfl
theorem unassignedOp : ∀ code, Statement (.unassignedOp code) := fun _ _ => rfl
theorem checksum : ∀ bs, Statement (.checksum bs) := fun _ _ => rfl
theorem cksStep : ∀ b, Statement (.cksStep b) := fun _ _ => rfl
theorem decHeader : ∀ b, Statement (.decHeader b) := fun _ _ => rfl
theorem decLength : ∀ b, Statement (.decLength b) := fun _ _ => rfl
theorem decPayload : ∀ b, Statement (.decPayload b) := fun _ _ => rfl
theorem decCheckMatch : ∀ b, Statement (.decCheckMatch b) := fun _ _ => rfl
theorem decCheckMismatch : ∀ b, Statement (.decCheckMismatch b) := fun _ _ => rfl
theorem complete : Statement (.complete) := fun _ => rfl
theorem lookup : ∀ h, Statement (.lookup h) := fun _ _ => rfl
theorem dispatch : ∀ total, Statement (.dispatch total) := fun _ _ => rfl
theorem sfCheck : ∀ off l total, Statement (.sfCheck off l total) := fun _ _ _ _ => rfl
theorem sfAlive : ∀ c, Statement (.sfAlive c) := fun _ _ => rfl
theorem sfKnown : ∀ k ty c p, Statement (.sfKnown k ty c p) := fun _ _ _ _ _ => rfl
theorem sfUnknown : ∀ h c, Statement (.sfUnknown h c) := fun _ _ _ => rfl
theorem callHandler : ∀ hd cx ty c p, Statement (.callHandler hd cx ty c p) := fun _ _ _ _ _ _ => rfl
theorem add : ∀ ty h c p n, Statement (.add ty h c p n) := fun _ _ _ _ _ _ => rfl
theorem finalize : Statement (.finalize) := fun _ => rfl
theorem txSend : Statement (.txSend) := fun _ => rfl
theorem pktHeader : Statement (.pktHeader) := fun _ => rfl
theorem pktLength : ∀ b, Statement (.pktLength b) := fun _ _ => rfl
theorem pktPayload : ∀ b, Statement (.pktPayload b) := fun _ _ => rfl
theorem pktChecksum : ∀ b, Statement (.pktChecksum b) := fun _ _ => rfl
theorem sfData : ∀ l h c rest, Statement (.sfData l h c rest) := fun _ _ _ _ _ => rfl
theorem sfAck : ∀ l h c rest, Statement (.sfAck l h c rest) := fun _ _ _ _ _ => rfl
theorem sfNack : ∀ l h c rest, Statement (.sfNack l h c rest) := fun _ _ _ _ _ => rfl
theorem sfRequest : ∀ l h c rest, Statement (.sfRequest l h c rest) := fun _ _ _ _ _ => rfl
theorem sfEmpty : ∀ l h c rest, Statement (.sfEmpty l h c rest) := fun _ _ _ _ _ => rfl
theorem sfClassAlive : ∀ l ty c rest, Statement (.sfClassAlive l ty c rest) := fun _ _ _ _ _ => rfl
theorem sfClassRegistered : ∀ l ty h c rest, Statement (.sfClassRegistered l ty h c rest) := fun _ _ _ _ _ _ => rfl
theorem sfClassUnregistered : ∀ l ty h c rest, Statement (.sfClassUnregistered l ty h c rest) := fun _ _ _ _ _ _ => rfl

end Sys2Proof.Laws.HasEncoding
end

