-- ==== Sys2Proof/Tests/Slice0.lean ====
section
/-! SUPPORT. Tests: ill-formed terms the check refuses, words written from 30_encoding.md and what they decode to, single steps
whose expected values are the vectors of 95_test_vectors.md (or a sum by hand), and one witness per statement with hypotheses. -/

open Sys2Proof Sys2Proof.Machine Sys2Proof.Safety

namespace Sys2Proof.Tests

/-! ### WellFormed refuses -/

theorem test_wf_register_null : (Instr.register 0x4D none ⟨0⟩).wellFormed = false := by decide
theorem test_wf_addData_length : (Instr.addData 0x4D 1 [0x2A] 2).wellFormed = false := by decide
theorem test_wf_add_length : (Instr.add 0x52 0x4D 1 [] 1).wellFormed = false := by decide
theorem test_wf_unassigned_code : (Instr.unassignedOp 0x7).wellFormed = false := by decide
theorem test_wf_lookup_zero : (Instr.lookup 0).wellFormed = false := by decide
theorem test_wf_sfUnknown_zero : (Instr.sfUnknown 0 1).wellFormed = false := by decide
theorem test_wf_classRegistered_zero : (Instr.sfClassRegistered 4 0x52 0 1 []).wellFormed = false := by decide
theorem test_wf_classUnregistered_zero : (Instr.sfClassUnregistered 4 0x52 0 1 []).wellFormed = false := by decide
theorem test_wf_dispatch_total : (Instr.dispatch 256).wellFormed = false := by decide
theorem test_wf_sfKnown_payload : (Instr.sfKnown 0 0x44 1 (List.replicate 252 0)).wellFormed = false := by
  show decide ((List.replicate 252 (0 : Byte)).length ≤ maxSubframePayload) = false
  rw [List.length_replicate]; decide
theorem test_wf_callHandler_payload :
    (Instr.callHandler ⟨1⟩ ⟨1⟩ 0x44 1 (List.replicate 252 0)).wellFormed = false := by
  show decide ((List.replicate 252 (0 : Byte)).length ≤ maxSubframePayload) = false
  rw [List.length_replicate]; decide

/-! ### Decoding, from the encodings of R67, R60, R61 and R62 -/

/-- R67, the port rows: the select code in binary, every operand on its own bus. -/
def bus : PortBus :=
  { byte := 0x11, hash := 0x22, command := 0x33, type := 0x44, n := 2, payload := [0x55, 0x66], handler := some ⟨7⟩,
    context := ⟨9⟩ }

theorem test_decode_reset : decode tableContext (.outside (.port 0b0000 bus)) = .ok .reset := by decide
theorem test_decode_decodeByte : decode tableContext (.outside (.port 0b0001 bus)) = .ok (.decodeByte 0x11) := by decide
theorem test_decode_register :
    decode tableContext (.outside (.port 0b0010 bus)) = .ok (.register 0x22 (some ⟨7⟩) ⟨9⟩) := by decide
theorem test_decode_addData :
    decode tableContext (.outside (.port 0b0011 bus)) = .ok (.addData 0x22 0x33 [0x55, 0x66] 2) := by decide
theorem test_decode_addRequest :
    decode tableContext (.outside (.port 0b0100 bus)) = .ok (.addRequest 0x44 0x22 0x33) := by decide
theorem test_decode_build : decode tableContext (.outside (.port 0b0101 bus)) = .ok .build := by decide
theorem test_decode_decReset : decode tableContext (.outside (.port 0b0110 bus)) = .ok .decReset := by decide
theorem test_decode_runDispatch : decode tableContext (.outside (.port 0b0111 bus)) = .ok .runDispatch := by decide
theorem test_decode_unassigned_lowest :
    decode tableContext (.outside (.port 0b1000 bus)) = .ok (.unassignedOp 0b1000) := by decide
theorem test_decode_unassigned_highest :
    decode tableContext (.outside (.port 0b1111 bus)) = .ok (.unassignedOp 0b1111) := by decide

/-- R60: the sentinel is 0x23 in the test configuration; any other byte between packets belongs to none (R64). -/
theorem test_decode_pktHeader : decode tableContext (.outside (.wire 0x23)) = .ok .pktHeader := by decide
theorem test_decode_garbage : decode tableContext (.outside (.wire 0x24)) = .ok (.decodeByte 0x24) := by decide
theorem test_decode_pktLength :
    decode { tableContext with position := .length } (.outside (.wire 0x23)) = .ok (.pktLength 0x23) := by decide
theorem test_decode_pktPayload :
    decode { tableContext with position := .payload } (.outside (.wire 0x4D)) = .ok (.pktPayload 0x4D) := by decide
theorem test_decode_pktChecksum :
    decode { tableContext with position := .checksum } (.outside (.wire 0xC4)) = .ok (.pktChecksum 0xC4) := by decide

/-- R61, R62: length, type, hash, command, then the body; the type codes are 'D', 'K', 'N', 'R' of the test configuration. -/
theorem test_decode_sfData :
    decode tableContext (.subframe [0x05, 0x44, 0x4D, 0x01, 0x2A]) = .ok (.sfData 0x05 0x4D 0x01 [0x2A]) := by decide
theorem test_decode_sfAck :
    decode tableContext (.subframe [0x04, 0x4B, 0x00, 0x07]) = .ok (.sfAck 0x04 0x00 0x07 []) := by decide
theorem test_decode_sfNack :
    decode tableContext (.subframe [0x04, 0x4E, 0x53, 0x09]) = .ok (.sfNack 0x04 0x53 0x09 []) := by decide
theorem test_decode_sfRequest :
    decode tableContext (.subframe [0x04, 0x52, 0x4D, 0x03]) = .ok (.sfRequest 0x04 0x4D 0x03 []) := by decide
theorem test_decode_sfEmpty :
    decode tableContext (.subframe [0x04, 0x45, 0x4D, 0x03]) = .ok (.sfEmpty 0x04 0x4D 0x03 []) := by decide

/-- R66: a type byte that is none of the five codes is named by the class of its hash. -/
theorem test_decode_reserved_type :
    decode tableContext (.subframe [0x04, 0xEE, 0x4D, 0x05]) = .ok (.sfClassUnregistered 0x04 0xEE 0x4D 0x05 []) := by decide
theorem test_decode_classAlive :
    decode tableContext (.routed [0x04, 0x52, 0x00, 0x07]) = .ok (.sfClassAlive 0x04 0x52 0x07 []) := by decide
theorem test_decode_classRegistered :
    decode { tableContext with registered := [0x4D] } (.routed [0x05, 0x44, 0x4D, 0x01, 0x2A]) =
      .ok (.sfClassRegistered 0x05 0x44 0x4D 0x01 [0x2A]) := by decide
theorem test_decode_classUnregistered :
    decode { tableContext with registered := [0x4D] } (.routed [0x04, 0x52, 0x53, 0x09]) =
      .ok (.sfClassUnregistered 0x04 0x52 0x53 0x09 []) := by decide
theorem test_decode_short_subframe :
    decode tableContext (.subframe [0x04, 0x52, 0x53]) = .error .shortSubframe := by decide

/-- A word of the table, from its encoding column: `llllllll 01000100 hhhhhhhh cccccccc` with length 5. -/
theorem test_tableWord_sfData :
    decodeTableWord 32 0b00000101_01000100_01001101_00000001 = some (.sfData 5 0x4D 1 [0]) := by decide
theorem test_tableWord_classAlive :
    decodeTableWord 32 0b00000100_00000001_00000000_00000111 = some (.sfClassAlive 4 1 7 []) := by decide
theorem test_tableWord_pktHeader : decodeTableWord 8 0b00100011 = some .pktHeader := by decide
theorem test_tableWord_build : decodeTableWord 8 0b0101 = some .build := by decide

/-! ### Single steps -/

/-- The state an operation ends in. -/
def after (i : Instr) (s : Machine.State) : Option Machine.State :=
  match exec i s with
  | .next t => some t
  | _ => none

/-- The operation is refused for this reason. -/
def refusedWith (r : Refusal) (i : Instr) (s : Machine.State) : Bool :=
  match exec i s with
  | .refused q => decide (q = r)
  | _ => false

/-- What an operation returned. -/
def resultOf (i : Instr) (s : Machine.State) : Option Result := (after i s).map State.result

/-- The events an operation appended, from an empty trace. -/
def traceOf (i : Instr) (s : Machine.State) : Option (List Event) := (after i s).map State.trace

/-- The state after reset, in the test configuration. -/
def fresh : Machine.State := Machine.State.reset

/-- 'M' registered as `(hM, cM)` with a handler that does nothing in its next call. -/
def registered : Machine.State :=
  { fresh with table := some ⟨0x4D, ⟨1⟩, ⟨2⟩⟩ :: List.replicate 4 none, answers := [.ret] }

/-- A packet with declared length 2 of which one byte, 0xFF, has been received. -/
def midPacket : Machine.State :=
  { registered with decState := .readPayload, cksAcc := 0xFF, rxCursor := 1, rxLen := 2, rxBuf := [(0, 0xFF)] }

/-- A packet of eight bytes, all received: the source's example, its checksum C4. -/
def fullPacket : Machine.State :=
  { registered with
    decState := .readPayload, cksAcc := 0xC4, rxCursor := 8, rxLen := 8,
    rxBuf := [(0, 0x08), (1, 0x44), (2, 0x4D), (3, 0x01), (4, 0x2A), (5, 0x00), (6, 0x00), (7, 0x00)] }

/-- The two sub-frames of V-MUX-3 in the receive buffer. -/
def twoFrames : Machine.State :=
  { registered with
    rxLen := 10,
    rxBuf := [(0, 0x06), (1, 0x44), (2, 0x4D), (3, 0x02), (4, 0x11), (5, 0x22), (6, 0x04), (7, 0x52), (8, 0x53), (9, 0x09)] }

/-- V-BLD-3 (b) before its BUILD: one request accumulated. -/
def accumulated : Machine.State :=
  { fresh with txCursor := 6, txBuf := [(0, 0x23), (2, 0x04), (3, 0x52), (4, 0x4D), (5, 0x03)] }

/-- The accumulator full to TX_LIMIT, by its cursor. -/
def crowded : Machine.State := { registered with txCursor := 34 }

/-- The test configuration with Deferred dispatch. -/
def deferredConfig : Config := { Config.default with dispatchMode := .deferred, ok := by decide }

/-- Deferred mode, an alive probe posted (V-LNK-3). -/
def posted : Machine.State :=
  { Machine.State.fresh deferredConfig with
    rxLen := 4, pktReady := true, rxBuf := [(0, 0x04), (1, 0x52), (2, 0x00), (3, 0x07)] }

/-- A full table (V-MUX-1). -/
def fullTable : Machine.State :=
  { fresh with
    table := [some ⟨0x41, ⟨0⟩, ⟨0⟩⟩, some ⟨0x42, ⟨1⟩, ⟨1⟩⟩, some ⟨0x43, ⟨2⟩, ⟨2⟩⟩, some ⟨0x44, ⟨3⟩, ⟨3⟩⟩,
      some ⟨0x45, ⟨4⟩, ⟨4⟩⟩] }

/-- 'M' registered twice (V-MUX-2). -/
def twice : Machine.State :=
  { registered with table := some ⟨0x4D, ⟨1⟩, ⟨2⟩⟩ :: some ⟨0x4D, ⟨8⟩, ⟨9⟩⟩ :: List.replicate 3 none }

/-- Waiting for the length byte. -/
def awaitingLength : Machine.State := { fresh with decState := .awaitLength }

/-- V-CKS-5, V-CKS-6. -/
theorem test_checksum_example : checksum [0x08, 0x44, 0x4D, 0x01, 0x2A, 0x00, 0x00, 0x00] = 0xC4 := by decide
theorem test_checksum_wraps : checksum (List.replicate 32 0xFF) = 0xE0 := by decide
/-- CKS_STEP after V-CKS-10: FF + 01 is 00. -/
theorem test_cksStep_wraps : (after (.cksStep 0x01) midPacket).map State.cksAcc = some 0x00 := by decide
/-- V-DEC-7, first byte. -/
theorem test_decodeByte_garbage : resultOf (.decodeByte 0x00) fresh = some (.status .errorHeader) := by decide
/-- V-DEC-2, first byte. -/
theorem test_decHeader_sentinel : (after (.decHeader 0x23) fresh).map State.decState = some .awaitLength := by decide
/-- V-DEC-5 (a) and V-DEC-4: 32 is accepted, 33 is not. -/
theorem test_decLength_capacity : (after (.decLength 0x20) awaitingLength).map State.rxLen = some 0x20 := by decide
theorem test_decLength_too_long : resultOf (.decLength 0x21) awaitingLength = some (.status .errorLength) := by decide
/-- R88: the second byte is stored at index 1 and FF + 02 is 01. -/
theorem test_decPayload_stores :
    (after (.decPayload 0x02) midPacket).map (fun t => (t.rxBuf.read 1, t.cksAcc)) = some (some 0x02, 0x01) := by decide
/-- S1: one call with the body, and no packet. -/
theorem test_decCheckMatch_example :
    traceOf (.decCheckMatch 0xC4) fullPacket = some [.call ⟨⟨1⟩, ⟨2⟩, 0x44, 0x01, [0x2A, 0, 0, 0]⟩] := by decide
/-- V-DEC-6 (b). -/
theorem test_decCheckMismatch_flip :
    resultOf (.decCheckMismatch 0x44) fullPacket = some (.status .errorChecksum) := by decide
/-- R91 in Deferred mode: posted, nothing sent. -/
theorem test_complete_posts :
    (after .complete { posted with pktReady := false }).map (fun t => (t.pktReady, t.trace)) = some (true, []) := by decide
/-- V-MUX-1: the sixth registration fails. -/
theorem test_register_full : resultOf (.register 0x46 (some ⟨5⟩) ⟨5⟩) fullTable = some (.bool false) := by decide
theorem test_register_second_slot :
    (after (.register 0x4D (some ⟨8⟩) ⟨9⟩) registered).map (fun t => t.table[1]?) = some (some (some ⟨0x4D, ⟨8⟩, ⟨9⟩⟩)) := by
  decide
/-- V-MUX-2. -/
theorem test_lookup_found : resultOf (.lookup 0x45) fullTable = some (.slot (some 4)) := by decide
theorem test_lookup_missing : resultOf (.lookup 0x53) fullTable = some (.slot none) := by decide
/-- V-MUX-3: the call, then the packet with the NACK. -/
theorem test_dispatch_two :
    traceOf (.dispatch 10) twoFrames =
      some [.call ⟨⟨1⟩, ⟨2⟩, 0x44, 0x02, [0x11, 0x22]⟩, .txSend [0x23, 0x04, 0x04, 0x4E, 0x53, 0x09, 0xAE]] := by decide
/-- V-MUX-5, V-MUX-7: length 0 and an overrun fail, an exact fit passes. -/
theorem test_sfCheck_bounds :
    resultOf (.sfCheck 4 0 8) fresh = some (.bool false) ∧ resultOf (.sfCheck 0 9 6) fresh = some (.bool false) ∧
      resultOf (.sfCheck 4 4 8) fresh = some (.bool true) := by decide
/-- V-MUX-12: an ACK that does not fit is dropped. -/
theorem test_sfAlive_dropped : (after (.sfAlive 3) crowded).map State.txCursor = some 34 := by decide
theorem test_sfAlive_ack :
    (after (.sfAlive 7) fresh).map (fun t => readTxRange t 2 4) = some (.ok [0x04, 0x4B, 0x00, 0x07]) := by
  rfl
theorem test_sfKnown_calls :
    traceOf (.sfKnown 0 0xEE 5 []) registered = some [.call ⟨⟨1⟩, ⟨2⟩, 0xEE, 5, []⟩] := by decide
theorem test_sfUnknown_nack :
    (after (.sfUnknown 0x53 9) fresh).map (fun t => readTxRange t 2 4) = some (.ok [0x04, 0x4E, 0x53, 0x09]) := by
  rfl
/-- R108: the handler's second answer is chosen by the first result; P4's second ADD fits where its first does not. -/
theorem test_callHandler_chooses :
    (after (.callHandler ⟨1⟩ ⟨2⟩ 0x52 2 [])
      { fresh with txCursor := 28, answers := [.add (.data 0x4D 2 [1, 2, 3, 4]) .ret (.add (.request 0x4B 0x4D 2) .ret .ret)] }).map
        (fun t => (t.txCursor, t.txBuf.read 29)) = some (32, some 0x4B) := by decide
/-- R120: a type that is not Data writes the header only, and the cursor passes the payload's place. -/
theorem test_add_header_only :
    (after (.add 0x52 0x4D 1 [0x99] 1) fresh).map (fun t => (t.txCursor, t.txBuf.read 2, t.txBuf.read 6)) =
      some (7, some 5, none) := by decide
/-- V-BLD-1, V-BLD-4 (b). -/
theorem test_addData_bytes :
    (after (.addData 0x4D 1 [0x2A, 0, 0, 0] 4) fresh).map (fun t => readTxRange t 2 8) =
      some (.ok [0x08, 0x44, 0x4D, 0x01, 0x2A, 0x00, 0x00, 0x00]) := by rfl
theorem test_addData_too_long : resultOf (.addData 0x4D 1 (List.replicate 29 0) 29) fresh = some (.bool false) := by decide
/-- V-BLD-3 (b), V-BLD-9's second request. -/
theorem test_addRequest_bytes :
    (after (.addRequest 0x52 0x4D 3) fresh).map (fun t => readTxRange t 2 4) = some (.ok [0x04, 0x52, 0x4D, 0x03]) := by rfl
theorem test_addRequest_full : resultOf (.addRequest 0x4B 0 2) crowded = some (.bool false) := by decide
/-- V-BLD-3 (b), V-BLD-3 (a). -/
theorem test_build_sends : traceOf .build accumulated = some [.txSend [0x23, 0x04, 0x04, 0x52, 0x4D, 0x03, 0xA6]] := by decide
theorem test_build_nothing : resultOf .build fresh = some (.bool false) := by decide
theorem test_finalize_length : (after .finalize accumulated).map (fun t => (t.txLen, t.txCursor)) = some (5, 2) := by decide
/-- R125: the packet of V-MUX-3 as it stands in the buffer. -/
theorem test_txSend_bytes :
    traceOf .txSend
      { fresh with txLen := 5, txBuf := [(0, 0x23), (1, 4), (2, 4), (3, 0x4E), (4, 0x53), (5, 9), (6, 0xAE), (7, 1)] } =
      some [.txSend [0x23, 0x04, 0x04, 0x4E, 0x53, 0x09, 0xAE]] := by decide
/-- V-LNK-1. -/
theorem test_reset_everything :
    (after .reset { fullPacket with txCursor := 6, answers := [] }) = some fresh := by decide
/-- V-LNK-2: `rx_len` is untouched. -/
theorem test_decReset_keeps_length :
    (after .decReset fullPacket).map (fun t => (t.decState, t.cksAcc, t.rxCursor, t.rxLen)) = some (.awaitHeader, 0, 0, 8) := by
  decide
/-- V-LNK-3, V-LNK-4. -/
theorem test_runDispatch_posted :
    (after .runDispatch posted).map (fun t => (t.pktReady, t.trace)) =
      some (false, [.txSend [0x23, 0x04, 0x04, 0x4B, 0x00, 0x07, 0x56]]) := by decide
theorem test_runDispatch_inline : resultOf .runDispatch fresh = some (.bool false) := by decide
theorem test_unassigned_refused : refusedWith (.unassignedOpcode 0xF) (.unassignedOp 0xF) fresh = true := by decide
/-- R176 (a). -/
theorem test_decodeByte_posted_refused : refusedWith .packetPending (.decodeByte 0x23) posted = true := by decide
theorem test_pktHeader_opens : (after .pktHeader fresh).map State.decState = some .awaitLength := by decide
theorem test_pktLength_too_long : resultOf (.pktLength 0x23) awaitingLength = some (.status .errorLength) := by decide
theorem test_pktPayload_stores : (after (.pktPayload 0x23) midPacket).map (fun t => t.rxBuf.read 1) = some (some 0x23) := by decide
theorem test_pktChecksum_done : resultOf (.pktChecksum 0xC4) fullPacket = some (.status .done) := by decide
/-- V-MUX-11 (a) with the Data kind, V-MUX-10 (a), (b), (c), and R66: each kind by its hash. -/
theorem test_sfData_known :
    traceOf (.sfData 6 0x4D 5 [0xAA, 0xBB]) registered = some [.call ⟨⟨1⟩, ⟨2⟩, 0x44, 5, [0xAA, 0xBB]⟩] := by decide
theorem test_sfAck_alive : (after (.sfAck 4 0 7 []) fresh).map (fun t => t.txBuf.read 3) = some (some 0x4B) := by decide
theorem test_sfNack_unknown : (after (.sfNack 4 0x53 9 []) fresh).map (fun t => t.txBuf.read 3) = some (some 0x4E) := by decide
theorem test_sfRequest_known :
    traceOf (.sfRequest 6 0x4D 5 [0xAA, 0xBB]) registered = some [.call ⟨⟨1⟩, ⟨2⟩, 0x52, 5, [0xAA, 0xBB]⟩] := by decide
theorem test_sfEmpty_alive : (after (.sfEmpty 4 0 7 []) fresh).map State.txCursor = some 6 := by decide
/-- V-MUX-10 (c): the body of an alive probe is ignored. -/
theorem test_classAlive_body : (after (.sfClassAlive 7 0x44 7 [1, 2, 3]) fresh).map State.txCursor = some 6 := by decide
/-- V-MUX-6 (b): a length of 2 is malformed. -/
theorem test_classRegistered_malformed : traceOf (.sfClassRegistered 2 0x52 0x4D 1 []) registered = some [] := by decide
theorem test_classUnregistered_nack :
    (after (.sfClassUnregistered 4 0x52 0x53 9 []) registered).map (fun t => t.txBuf.read 4) = some (some 0x53) := by decide

/-! ### Witnesses: the hypotheses of each statement, met together -/

theorem witness_IncrementalChecksumAgrees : fresh.cksAcc = 0 := by decide

theorem witness_HeaderByteIsAcceptedOrDropped :
    ∃ (s : Machine.State) (b c : Byte) (i j : Instr), s.decState = .awaitHeader ∧ s.pktReady = false ∧
      b = s.cfg.header ∧ i = .pktHeader ∧ c ≠ s.cfg.header ∧ j = .decodeByte c :=
  ⟨fresh, 0x23, 0x24, _, _, rfl, rfl, rfl, rfl, by decide, rfl⟩

theorem witness_LengthByteIsCheckedAndStored :
    ∃ (s : Machine.State) (b c : Byte) (i j : Instr), s.decState = .awaitLength ∧ s.pktReady = false ∧
      b.toNat = s.rxCap.toNat ∧ i = .decLength b ∧ c.toNat = s.rxCap.toNat + 1 ∧ j = .pktLength c :=
  ⟨awaitingLength, 0x20, 0x21, _, _, rfl, rfl, by decide, rfl, by decide, rfl⟩

theorem witness_PayloadByteIsStoredAndSummed :
    ∃ (s : Machine.State) (b : Byte) (i : Instr), s.decState = .readPayload ∧ s.rxCursor.toNat < s.rxLen.toNat ∧
      s.rxLen.toNat ≤ s.cfg.rxCapacity ∧ s.pktReady = false ∧ i = .decPayload b :=
  ⟨midPacket, 0x23, _, rfl, by decide, by decide, rfl, rfl⟩

theorem witness_WrongChecksumDeliversNothing :
    ∃ (s : Machine.State) (b : Byte) (i : Instr), s.decState = .readPayload ∧ s.rxCursor = s.rxLen ∧ b ≠ s.cksAcc ∧
      s.pktReady = false ∧ i = .decCheckMismatch b :=
  ⟨fullPacket, 0x44, _, rfl, rfl, by decide, rfl, rfl⟩

/-- The invariant holds after REGISTER. -/
theorem witness_inv_registered : Safety.Inv registered where
  rx_wf := by decide
  tx_wf := by decide
  rx_inside := by decide
  tx_inside := by decide
  rx_cap := by decide
  rx_len := by decide
  in_packet := fun h => absurd h (by decide)
  accumulated := ⟨[], ⟨by decide, by decide, rfl⟩, by decide⟩
  tx_len := by decide
  table_length := by decide
  table_prefix := ⟨[⟨0x4D, ⟨1⟩, ⟨2⟩⟩], 4, rfl⟩
  posted := fun h => absurd h (by decide)

/-- The invariant holds in the middle of a packet. -/
theorem witness_inv_midPacket : Safety.Inv midPacket where
  rx_wf := by decide
  tx_wf := by decide
  rx_inside := by decide
  tx_inside := by decide
  rx_cap := by decide
  rx_len := by decide
  in_packet := fun _ => ⟨by decide, [0xFF], rfl, by decide⟩
  accumulated := ⟨[], ⟨by decide, by decide, rfl⟩, by decide⟩
  tx_len := by decide
  table_length := by decide
  table_prefix := ⟨[⟨0x4D, ⟨1⟩, ⟨2⟩⟩], 4, rfl⟩
  posted := fun h => absurd h (by decide)

/-- The invariant holds before the checksum byte of the source's example. -/
theorem witness_inv_fullPacket : Safety.Inv fullPacket where
  rx_wf := by decide
  tx_wf := by decide
  rx_inside := by decide
  tx_inside := by decide
  rx_cap := by decide
  rx_len := by decide
  in_packet := fun _ => ⟨by decide, [0x08, 0x44, 0x4D, 0x01, 0x2A, 0x00, 0x00, 0x00], rfl, by decide⟩
  accumulated := ⟨[], ⟨by decide, by decide, rfl⟩, by decide⟩
  tx_len := by decide
  table_length := by decide
  table_prefix := ⟨[⟨0x4D, ⟨1⟩, ⟨2⟩⟩], 4, rfl⟩
  posted := fun h => absurd h (by decide)

/-- The invariant holds with a packet posted. -/
theorem witness_inv_posted : Safety.Inv posted where
  rx_wf := by decide
  tx_wf := by decide
  rx_inside := by decide
  tx_inside := by decide
  rx_cap := by decide
  rx_len := by decide
  in_packet := fun h => absurd h (by decide)
  accumulated := ⟨[], ⟨by decide, by decide, rfl⟩, by decide⟩
  tx_len := by decide
  table_length := by decide
  table_prefix := ⟨[], 5, rfl⟩
  posted := fun _ => ⟨rfl, rfl, [0x04, 0x52, 0x00, 0x07], rfl⟩

theorem witness_RightChecksumRunsCompletion :
    ∃ (s : Machine.State) (b : Byte) (i : Instr), Safety.Inv s ∧ s.decState = .readPayload ∧ s.rxCursor = s.rxLen ∧
      b = s.cksAcc ∧ i = .decCheckMatch b :=
  ⟨fullPacket, 0xC4, _, witness_inv_fullPacket, rfl, rfl, rfl, rfl⟩

theorem witness_CompletionDispatchesOrPosts :
    posted.cfg.dispatchMode = .deferred ∧
    (twoFrames.cfg.dispatchMode = .inline ∧
      (∃ payload, RxHolds twoFrames twoFrames.rxLen.toNat payload) ∧ ∃ pend, TxHolds twoFrames pend) :=
  ⟨rfl, rfl, ⟨_, rfl⟩, ⟨[], by decide, by decide, rfl⟩⟩

theorem witness_PostedPacketRefusesDecoding : posted.pktReady = true := rfl

theorem witness_DecoderArmsAloneIgnoreThePostedPacket :
    (∃ t : Machine.State, posted.pktReady = true ∧ exec (.decHeader 0x23) { posted with pktReady := false } = .next t) ∧
    (∃ t : Machine.State, exec (.decLength 0x21) { posted with decState := .awaitLength, pktReady := false } = .next t) ∧
    (∃ s t : Machine.State, s.pktReady = true ∧ s.decState = .readPayload ∧ s.rxCursor.toNat < s.rxLen.toNat ∧
      exec (.decPayload 0x23) { s with pktReady := false } = .next t) ∧
    (∃ s t : Machine.State, s.pktReady = true ∧ s.decState = .readPayload ∧ s.rxCursor = s.rxLen ∧
      exec (.decCheckMismatch 0x23) { s with pktReady := false } = .next t) ∧
    (∃ (s t : Machine.State) (b : Byte), s.pktReady = true ∧ s.decState = .readPayload ∧ s.rxCursor = s.rxLen ∧ b = s.cksAcc ∧
      exec .complete { s with decState := .awaitHeader } = .next t) :=
  ⟨⟨_, rfl, rfl⟩, ⟨_, rfl⟩, ⟨{ midPacket with pktReady := true }, _, rfl, rfl, by decide, rfl⟩,
    ⟨{ fullPacket with pktReady := true }, _, rfl, rfl, rfl, rfl⟩,
    ⟨{ posted with decState := .readPayload, rxCursor := 4, cksAcc := 0x5D }, _, 0x5D, rfl, rfl, rfl, rfl, rfl⟩⟩

theorem witness_DecodeErrorsAreLocal :
    ∃ (s t : Machine.State) (b : Byte), exec (.decodeByte b) s = .next t ∧ t.result = .status .errorChecksum :=
  ⟨fullPacket, _, 0x44, rfl, rfl⟩

theorem witness_GarbageBeforeHeaderIsDropped : Quiet fresh ∧ fresh.cfg.header ∉ [(0x00 : Byte), 0xFF, 0x41] :=
  ⟨⟨rfl, rfl⟩, by decide⟩

theorem witness_PayloadBytesAccumulate :
    ∃ (s : Machine.State) (payload : List Byte), payload ≠ [] ∧ s.decState = .readPayload ∧ s.pktReady = false ∧
      s.rxLen.toNat ≤ s.cfg.rxCapacity ∧ s.rxCursor.toNat + payload.length = s.rxLen.toNat :=
  ⟨midPacket, [0x23], by decide, rfl, rfl, by decide, by decide⟩

theorem witness_RegisterFillsLowestEmptySlot :
    (∃ (entries : List Entry) (rest : List Slot), entries ≠ [] ∧ registered.table = entries.map some ++ none :: rest) ∧
    none ∉ fullTable.table :=
  ⟨⟨[⟨0x4D, ⟨1⟩, ⟨2⟩⟩], List.replicate 3 none, by decide, rfl⟩, by decide⟩

theorem witness_LookupReturnsFirstMatch : (0x4D : Byte) ≠ hashAlive := by decide

theorem witness_FirstRegistrationWins :
    ∃ (s t : Machine.State), (∃ (entries : List Entry) (free : Nat), s.table = entries.map some ++ List.replicate free none) ∧
      exec (.lookup 0x4D) s = .next { s with result := .slot (some 0) } ∧
      exec (.register 0x4D (some ⟨8⟩) ⟨9⟩) s = .next t ∧ t.result = .bool true :=
  ⟨registered, _, ⟨[⟨0x4D, ⟨1⟩, ⟨2⟩⟩], 4, rfl⟩, rfl, rfl, rfl⟩

theorem witness_RegistrationsStayUntilReset :
    ∃ (i : Instr) (s t : Machine.State) (e : Entry), i ≠ .reset ∧ exec i s = .next t ∧ s.table[0]? = some (some e) :=
  ⟨.register 0x41 (some ⟨8⟩) ⟨9⟩, registered, _, _, by decide, rfl, rfl⟩

theorem witness_DispatchIsFoldOverParsedPayload :
    ∃ (s : Machine.State) (payload pend : List Byte), payload.length = 10 ∧ payload.length ≤ s.cfg.rxCapacity ∧
      RxHolds s payload.length payload ∧ TxHolds s pend :=
  ⟨twoFrames, [0x06, 0x44, 0x4D, 0x02, 0x11, 0x22, 0x04, 0x52, 0x53, 0x09], [], by decide, by decide, rfl,
    by decide, by decide, rfl⟩

theorem witness_DispatchRunsTheDecodedSubframes :
    ∃ (s : Machine.State) (payload pend : List Byte) (row : Subframe → Instr), payload.length = 10 ∧
      payload.length ≤ s.cfg.rxCapacity ∧ RxHolds s payload.length payload ∧ TxHolds s pend ∧
      (∀ f, row f = kindRow (decodeContext s) f ∨ row f = classRow (decodeContext s) f) ∧
      (parsePayload payload.length payload).map row = [.sfData 6 0x4D 2 [0x11, 0x22], .sfRequest 4 0x53 9 []] :=
  ⟨twoFrames, [0x06, 0x44, 0x4D, 0x02, 0x11, 0x22, 0x04, 0x52, 0x53, 0x09], [], kindRow (decodeContext twoFrames),
    by decide, by decide, rfl, ⟨by decide, by decide, rfl⟩, fun _ => .inl rfl, by decide⟩

theorem witness_EmptyDispatchSendsPending :
    fresh.txCursor ≤ hdrSize ∧ hdrSize < accumulated.txCursor ∧ ∃ pend, TxHolds accumulated pend :=
  ⟨by decide, by decide, _, by decide, by decide, rfl⟩

theorem witness_MalformedSubframeEndsDispatch :
    (∃ (s : Machine.State) (total : Nat) (length : Byte), 0 < total ∧ total ≤ s.cfg.rxCapacity ∧
      readRx s 0 = .ok length ∧ length.toNat < sfHdr) ∧
    (∃ (s : Machine.State) (total : Nat) (length : Byte), 0 < total ∧ total ≤ s.cfg.rxCapacity ∧
      readRx s 0 = .ok length ∧ total < length.toNat) :=
  ⟨⟨{ fresh with rxBuf := [(0, 3)] }, 3, 3, by decide, by decide, rfl, by decide⟩,
    ⟨{ fresh with rxBuf := [(0, 9)] }, 6, 9, by decide, by decide, rfl, by decide⟩⟩

theorem witness_AliveProbeIsAcknowledged :
    ∃ (length type command : Byte) (rest : List Byte) (i : Instr), sfHdr ≤ length.toNat ∧
      length.toNat = sfHdr + rest.length ∧ i = .sfClassAlive length type command rest ∧
      Room { fresh with txCursor := 30 } 4 ∧ ¬ Room { fresh with txCursor := 31 } 4 :=
  ⟨7, 0x44, 7, [1, 2, 3], _, by decide, by decide, rfl, by unfold Room; decide, by unfold Room; decide⟩

theorem witness_UnknownHashIsNacked :
    ∃ (s : Machine.State) (length type hash command : Byte) (rest : List Byte) (i : Instr), sfHdr ≤ length.toNat ∧
      length.toNat ≤ sfHdr + rest.length ∧ hash ≠ hashAlive ∧ (∀ e, some e ∈ s.table → e.hash ≠ hash) ∧
      i = .sfClassUnregistered length type hash command rest ∧ ¬ Room { s with txCursor := 31 } 4 ∧
      Room { s with txCursor := 30 } 4 :=
  ⟨crowded, 4, 0x52, 0x53, 9, [], _, by decide, by decide, by decide,
    fun e h => by simp [crowded, registered] at h; subst h; decide, rfl, by unfold Room; decide, by unfold Room; decide⟩

theorem witness_KnownHashIsDelivered :
    (∃ (s : Machine.State) (length type hash command : Byte) (rest : List Byte) (k : Nat) (e : Entry) (i : Instr),
      sfHdr ≤ length.toNat ∧ length.toNat ≤ sfHdr + rest.length ∧ hash ≠ hashAlive ∧
      firstMatch s.table hash = some k ∧ s.table[k]? = some (some e) ∧
      i = .sfClassRegistered length type hash command rest) ∧
    (∃ e, twice.table[1]? = some (some e) ∧ e.hash = 0x4D ∧ firstMatch twice.table 0x4D = some 0) :=
  ⟨⟨registered, 6, 0x52, 0x4D, 5, [0xAA, 0xBB, 0xCC], 0, _, _, by decide, by decide, by decide, rfl, rfl, rfl⟩,
    _, rfl, rfl, rfl⟩

theorem witness_MalformedSubframeIsIgnored :
    ∃ (s : Machine.State) (short long hash : Byte) (rest : List Byte), short.toNat + 1 = sfHdr ∧
      sfHdr + rest.length + 1 = long.toNat ∧ hash ≠ hashAlive ∧ (∃ e, some e ∈ s.table ∧ e.hash = hash) ∧
      (Instr.sfData short hash 1 rest ∈ (kindRows s.cfg short hash 1 rest).map Prod.snd) :=
  ⟨registered, 3, 6, 0x4D, [0x2A], by decide, by decide, by decide, ⟨⟨0x4D, ⟨1⟩, ⟨2⟩⟩, by decide, rfl⟩, by decide⟩

theorem witness_HandlerOperationsActAsPortOperations_call :
    (∃ (s : Machine.State) (script : Script) (rest : List Script), s.answers = script :: rest ∧ script ≠ .ret) ∧
    (∃ s : Machine.State, s.answers = []) :=
  ⟨⟨{ fresh with answers := [.add (.request 0x4B 0x4D 2) .ret .ret, .ret] }, _, _, rfl, by decide⟩, ⟨fresh, rfl⟩⟩

theorem witness_HandlerOperationsActAsPortOperations :
    (∃ (s u : Machine.State) (op : AddOp) (i : Instr), op = .request 0x52 0x4D 3 ∧ i = .addRequest 0x52 0x4D 3 ∧
      exec i s = .next u ∧ u.result = .bool true) ∧
    (∃ (s u : Machine.State) (op : AddOp) (i : Instr), op = .data 0x4D 1 [0x2A] ∧ i = .addData 0x4D 1 [0x2A] 1 ∧
      exec i s = .next u ∧ u.result = .bool false) :=
  ⟨⟨fresh, _, _, _, rfl, rfl, rfl, rfl⟩, ⟨crowded, _, _, _, rfl, rfl, rfl, rfl⟩⟩

theorem witness_TwoSubframesAreMultiplexed :
    ∃ (s : Machine.State) (f1 f2 : Subframe) (e : Entry) (k : Nat) (pend : List Byte) (answers : List Script),
      sfHdr + f1.payload.length ≤ 255 ∧ sfHdr + f2.payload.length ≤ 255 ∧
      (subframeBytes f1 ++ subframeBytes f2).length ≤ s.cfg.rxCapacity ∧
      RxHolds s (subframeBytes f1 ++ subframeBytes f2).length (subframeBytes f1 ++ subframeBytes f2) ∧
      TxHolds s pend ∧ Room s 4 ∧ s.answers = .ret :: answers ∧ f1.hash ≠ hashAlive ∧
      firstMatch s.table f1.hash = some k ∧ s.table[k]? = some (some e) ∧ f2.hash ≠ hashAlive ∧
      (∀ x, some x ∈ s.table → x.hash ≠ f2.hash) :=
  ⟨twoFrames, ⟨0x44, 0x4D, 2, [0x11, 0x22]⟩, ⟨0x52, 0x53, 9, []⟩, _, 0, [], [], by decide, by decide, by decide, rfl,
    ⟨by decide, by decide, rfl⟩, by unfold Room; decide, rfl, by decide, rfl, rfl, by decide,
    fun e h => by simp [twoFrames, registered] at h; subst h; decide⟩

theorem witness_KeepAlivePacketIsAcknowledged :
    ∃ (s : Machine.State) (f : Subframe) (pend : List Byte), f.hash = hashAlive ∧ sfHdr + f.payload.length ≤ 255 ∧
      (subframeBytes f).length ≤ s.cfg.rxCapacity ∧ RxHolds s (subframeBytes f).length (subframeBytes f) ∧
      TxHolds s pend ∧ Room s 4 :=
  ⟨posted, ⟨0x52, 0, 7, []⟩, [], rfl, by decide, by decide, rfl, ⟨by decide, by decide, rfl⟩, by unfold Room; decide⟩

theorem witness_AddStoresWhatFits :
    ∃ (s : Machine.State) (n m : Byte) (payload : List Byte), payload.length = n.toNat ∧
      (s.txCursor + (4 + n.toNat) = s.cfg.txLimit ∧ Room s (4 + n.toNat)) ∧
      (m.toNat = n.toNat + 1 ∧ ¬ Room s (4 + m.toNat)) ∧ hdrSize ≤ s.txCursor :=
  ⟨fresh, 28, 29, List.replicate 28 0, by decide, ⟨by decide, by unfold Room; decide⟩, ⟨by decide, by unfold Room; decide⟩,
    by decide⟩

theorem witness_AddRequestStoresFourBytes :
    Room { fresh with txCursor := 30 } 4 ∧ ¬ Room { fresh with txCursor := 31 } 4 :=
  ⟨by unfold Room; decide, by unfold Room; decide⟩

theorem witness_AccumulatorIsConcatenation :
    ∃ (s : Machine.State) (payload : List Byte) (n : Byte) (pend : List Byte), payload.length = n.toNat ∧
      pend ≠ [] ∧ TxHolds s pend ∧ Room s (4 + n.toNat) :=
  ⟨accumulated, [0x2A], 1, [0x04, 0x52, 0x4D, 0x03], by decide, by decide, ⟨by decide, by decide, rfl⟩,
    by unfold Room; decide⟩

theorem witness_FinalizeWithNothingToSend : fresh.txCursor ≤ hdrSize := by decide

theorem witness_FinalizeSealsAndSends : hdrSize < accumulated.txCursor ∧ TxHolds accumulated [0x04, 0x52, 0x4D, 0x03] :=
  ⟨by decide, by decide, by decide, rfl⟩

theorem witness_BuildIsFinalize : TxHolds fresh [] ∧ TxHolds accumulated [0x04, 0x52, 0x4D, 0x03] :=
  ⟨⟨by decide, by decide, rfl⟩, by decide, by decide, rfl⟩

theorem witness_SecondBuildSendsNothing : ∃ t : Machine.State, exec .build accumulated = .next t ∧ t.result = .bool true :=
  ⟨_, rfl, rfl⟩

theorem witness_TxSendCarriesThePacket :
    ∃ bytes : List Byte, readTxRange { accumulated with txLen := 4, txBuf := (0, 0x23) :: (1, 4) :: accumulated.txBuf.tail } 0
      (hdrSize + 4) = .ok bytes := ⟨_, rfl⟩

theorem witness_DecoderResetRearmsOnly : midPacket.pktReady = false := rfl

theorem witness_RunDispatchConsumesThePacket :
    fresh.pktReady = false ∧ posted.pktReady = true ∧
    (∃ payload, RxHolds posted posted.rxLen.toNat payload) ∧ ∃ pend, TxHolds posted pend :=
  ⟨rfl, rfl, ⟨_, rfl⟩, ⟨[], by decide, by decide, rfl⟩⟩

theorem witness_BrokenObligationsAreRefused : ([0x2A] : List Byte).length ≠ (2 : Byte).toNat := by decide

theorem witness_StepRunsTheDecodedOperation :
    fresh.pending = [] ∧ { fresh with pending := [.wire 0x23, .port 0x5 bus] }.pending = [.wire 0x23, .port 0x5 bus] := by decide

/-- A sub-frame word of the table, placed by `withFetchWord`, is answered by the next step: 'K' to hash 0 (V-MUX-4). -/
theorem test_fetchWord_alive :
    (match Machine.step (fresh.withFetchWord 32 0b00000100_00000001_00000000_00000111) with
      | .next t => some (t.result, t.trace)
      | _ => none) = some (.status .done, [.txSend [0x23, 0x04, 0x04, 0x4B, 0x00, 0x07, 0x56]]) := by decide

theorem witness_StepDispatchesTheHeldPayload :
    ([0x04, 0x52, 0x00, 0x07] : List Byte).length ≤ fresh.cfg.rxCapacity ∧ TxHolds fresh [] ∧
    fresh.cfg.dispatchMode = .inline ∧ TxHolds { posted with pktReady := false } [] ∧ posted.cfg.dispatchMode = .deferred :=
  ⟨by decide, ⟨by decide, by decide, rfl⟩, rfl, ⟨by decide, by decide, rfl⟩, rfl⟩

theorem witness_DecodeEncodeAgree :
    (Instr.sfClassRegistered 5 0x44 0x4D 1 [0x2A]).wellFormed = true ∧
    (Instr.sfClassRegistered 5 0x44 0x4D 1 [0x2A]).selectedIn { tableContext with registered := [0x4D] } = true := by decide

theorem witness_StepKeepsTheInvariant :
    ∃ s t : Machine.State, Safety.Inv s ∧ s.decState = .readPayload ∧ Machine.step s = .next t :=
  ⟨midPacket, _, witness_inv_midPacket, rfl, rfl⟩

theorem witness_step_takes_a_byte :
    ∃ t : Machine.State, Machine.step { midPacket with pending := [.wire 0x23] } = .next t ∧ t.rxBuf.read 1 = some 0x23 :=
  ⟨_, rfl, rfl⟩

theorem witness_EncodedOperationsKeepTheInvariant :
    ∃ t : Machine.State, (Instr.sfData 5 0x4D 1 [0x2A]).group ≠ .internal ∧ Safety.Inv registered ∧
      exec (.sfData 5 0x4D 1 [0x2A]) registered = .next t :=
  ⟨_, by decide, witness_inv_registered, rfl⟩

theorem witness_ResetEstablishesTheInvariant : ∃ t : Machine.State, exec .reset fullPacket = .next t := ⟨_, rfl⟩

theorem witness_AdmittedOperationsComplete :
    (Safety.Inv fullPacket ∧ mayIssue .transportRx .between (.decodeByte 0xC4) fullPacket = true ∧
      (Instr.decodeByte 0xC4).wellFormed = true) ∧
    (Safety.Inv posted ∧ mayIssue .task .between .runDispatch posted = true ∧ Instr.runDispatch.wellFormed = true) ∧
    mayIssue .handler .duringCall (.addRequest 0x52 0x4D 3) registered = true :=
  ⟨⟨witness_inv_fullPacket, by decide, by decide⟩, ⟨witness_inv_posted, by decide, by decide⟩, by decide⟩

/-- R16: TASK is absent in Inline mode; a handler issues nothing outside its call, and no other agent during one. -/
theorem test_rights_moments :
    mayIssue .task .between .runDispatch fresh = false ∧ mayIssue .handler .between (.addRequest 0x52 0x4D 3) fresh = false ∧
    mayIssue .host .duringCall (.addRequest 0x52 0x4D 3) fresh = false := by decide

theorem witness_PacketRoundTrip :
    hdrSize < accumulated.txCursor ∧ TxHolds accumulated [0x04, 0x52, 0x4D, 0x03] ∧ Safety.Inv registered ∧ Quiet registered ∧
    registered.cfg.header = accumulated.cfg.header ∧ [(0x04 : Byte), 0x52, 0x4D, 0x03].length ≤ registered.cfg.rxCapacity :=
  ⟨by decide, ⟨by decide, by decide, rfl⟩, witness_inv_registered, ⟨rfl, rfl⟩, rfl, by decide⟩

theorem witness_FlippedPayloadBitIsDetected :
    Safety.Inv registered ∧ Quiet registered ∧ 7 < 8 ∧
    ([(0x04 : Byte), 0x52] ++ 0x4D :: [0x03]).length ≤ registered.cfg.rxCapacity :=
  ⟨witness_inv_registered, ⟨rfl, rfl⟩, by decide, by decide⟩

theorem witness_TraceOnlyGrows :
    ∃ (i : Instr) (t : Machine.State), i ≠ .reset ∧ exec i accumulated = .next t ∧ t.trace ≠ [] :=
  ⟨.build, _, by decide, rfl, by decide⟩

theorem witness_ReceiveBufferIsTheDecoders :
    ∃ (i : Instr) (t : Machine.State), exec i midPacket = .next t ∧ t.rxBuf.read 1 ≠ midPacket.rxBuf.read 1 :=
  ⟨.decPayload 0x23, _, rfl, by decide⟩

theorem witness_ParametersAreConstant : ∃ t : Machine.State, exec .decReset midPacket = .next t ∧ Instr.decReset ≠ .reset :=
  ⟨_, rfl, by decide⟩

end Sys2Proof.Tests
end

/-! The step as the decoded port operation (R16, R17), completion of a dispatch over readable buffers (R103, R124), and the
statements on them: O42, O55, O48. -/

namespace Sys2Proof.Proofs

open Sys2Proof.Machine Sys2Proof.Safety

/-! ### The step -/

theorem step_idle {s : State} (h : s.pending = []) : step s = .next s := by
  unfold step
  rw [h]

theorem step_takes {s : State} {st : Stimulus} {rest : List Stimulus} (h : s.pending = st :: rest) :
    step s = exec (decodeStimulus (decodeContext s) st) (takePending s) := by
  unfold step
  rw [h]

theorem step_issued {s : State} {st : Stimulus} {rest : List Stimulus} (h : s.pending = st :: rest) :
    step s = exec (decodeStimulus (decodeContext s) st) { s with pending := rest } := by
  have ht : takePending s = { s with pending := rest } := by simp [takePending, h]
  rw [step_takes h, ht]

/-- Taking what was just issued gives back the state before. -/
theorem step_issueFirst (s : State) (st : Stimulus) :
    step (issueFirst s st) = exec (decodeStimulus (decodeContext (issueFirst s st)) st) s :=
  step_issued rfl

/-- An operation of the outside as the step runs it: a port operation or one received byte of a packet (R16). -/
def OutsideRow (i : Instr) : Prop :=
  i.group = .port ∨ i = .pktHeader ∨ ∃ b, i = .pktLength b ∨ i = .pktPayload b ∨ i = .pktChecksum b

/-- Each of the 16 select codes names a port row (R67). -/
theorem decodePort_group (op : BitVec 4) (bus : PortBus) : (decodePort op bus).group = .port := by
  unfold decodePort
  split <;> rfl

/-- A received byte is the packet row of the decoder's position, or outside any packet a bare DECODE_BYTE (R64, R71). -/
theorem decodeWire_outsideRow (ctx : DecodeContext) (b : Byte) : OutsideRow (decodeWire ctx b) := by
  unfold decodeWire
  split
  · split
    · exact .inr (.inl rfl)
    · exact .inl rfl
  · exact .inr (.inr ⟨b, .inl rfl⟩)
  · exact .inr (.inr ⟨b, .inr (.inl rfl)⟩)
  · exact .inr (.inr ⟨b, .inr (.inr rfl)⟩)

theorem decodeStimulus_outsideRow (ctx : DecodeContext) (st : Stimulus) : OutsideRow (decodeStimulus ctx st) := by
  cases st with
  | port op bus => exact .inl (decodePort_group op bus)
  | wire b => exact decodeWire_outsideRow ctx b

/-- Settles O42: the decoder is total on what the outside presents, and `step` is `exec` of what it answers. -/
theorem stepRunsTheDecodedOperation : Obligations.StepRunsTheDecodedOperation := by
  intro s
  refine ⟨step_idle, fun st rest h => ?_⟩
  exact ⟨decodeStimulus (decodeContext s) st, rfl, decodeStimulus_outsideRow _ st, step_issued h⟩

/-! ### FINALIZE -/

/-- All that a FINALIZE that completes can do: nothing, or seal the packet and send it (R124). -/
theorem finalizePacket_cases {s t : State} {sent : Bool} (h : finalizePacket s = .ok (sent, t)) :
    (sent = false ∧ t = s) ∨
      (sent = true ∧ ∃ sum packet, t = emit (sealPacket s (s.txCursor - hdrSize) sum) (.txSend packet)) := by
  unfold finalizePacket at h
  split at h
  · split at h
    · cases h
    · next bytes _ =>
      split at h
      · split at h
        · next t' hsend =>
          obtain ⟨packet, _, rfl⟩ := sendPacket_eq_ok.mp hsend
          cases h
          exact .inr ⟨rfl, checksum bytes, packet, rfl⟩
        · cases h
      · cases h
  · cases h
    exact .inl ⟨rfl, rfl⟩

theorem finalizePacket_pktReady {s t : State} {sent : Bool} (h : finalizePacket s = .ok (sent, t)) :
    t.pktReady = s.pktReady := by
  obtain ⟨_, rfl⟩ | ⟨_, sum, packet, rfl⟩ := finalizePacket_cases h
  · rfl
  · rfl

/-- FINALIZE completes whenever the accumulator is readable, empty or not (R124, R171). -/
theorem finalizePacket_completes {s : State} {pend : List Byte} (h : TxHolds s pend) :
    ∃ sent t, finalizePacket s = .ok (sent, t) := by
  obtain ⟨_, hle, hr⟩ := h
  rcases Nat.lt_or_ge hdrSize s.txCursor with hlt | hge
  · exact ⟨_, _, finalizePacket_sends hlt hle hr⟩
  · exact ⟨_, _, finalizePacket_nothing hge⟩

/-! ### What a dispatch reads: it depends on the buffers alone, and is still there after each sub-frame -/

theorem rxHolds_congr {s t : State} {n : Nat} {bytes : List Byte} (hcfg : t.cfg = s.cfg) (hbuf : t.rxBuf = s.rxBuf)
    (hr : RxHolds s n bytes) : RxHolds t n bytes :=
  (readRxRange_congr hcfg hbuf 0 n).trans hr

theorem txHolds_congr {s t : State} {pend : List Byte} (hcfg : t.cfg = s.cfg) (hbuf : t.txBuf = s.txBuf)
    (hcursor : t.txCursor = s.txCursor) (hp : TxHolds s pend) : TxHolds t pend := by
  unfold TxHolds at hp ⊢
  rwa [hcfg, hcursor, readTxRange_congr hcfg hbuf]

theorem rxHolds_of_routed {s t : State} {n : Nat} {bytes : List Byte} (h : Routed s t) (hr : RxHolds s n bytes) :
    RxHolds t n bytes := by
  obtain ⟨frames, calls, rfl, _⟩ := h
  exact rxHolds_congr (s := s) rfl rfl hr

/-- The appended sub-frames stand after what was accumulated, so the accumulator stays readable (R120 (g)). -/
theorem txHolds_of_routed {s t : State} {pend : List Byte} (h : Routed s t) (hp : TxHolds s pend) :
    ∃ more, TxHolds t (pend ++ more) := by
  obtain ⟨frames, calls, rfl, hlimit, _⟩ := h
  obtain ⟨h2, hle, hr⟩ := hp
  have hfits : s.txCursor + (frames.flatMap subframeBytes).length ≤ s.cfg.txLimit := hlimit hle
  refine ⟨frames.flatMap subframeBytes, Nat.le_trans h2 (Nat.le_add_right ..), hfits, ?_⟩
  exact (readTxRange_congr (s := appendBytes s (frames.flatMap subframeBytes))
    (t := Machine.routed s (frames.flatMap subframeBytes) calls) rfl rfl _ _).trans
    (readTxRange_appendBytes h2 hr hfits)

theorem routed_pktReady_eq {s t : State} (h : Routed s t) : t.pktReady = s.pktReady := by
  obtain ⟨frames, calls, rfl, _⟩ := h
  rfl

/-! ### DISPATCH over a held payload completes -/

/-- Every range inside a held payload is readable. -/
theorem readRxRange_of_rxHolds {s : State} {n a m : Nat} {bytes : List Byte} (h : RxHolds s n bytes)
    (hle : a + m ≤ n) : readRxRange s a m = .ok ((bytes.drop a).take m) := by
  obtain ⟨hlen, hget⟩ := readRxRange_eq_ok.mp h
  refine readRxRange_eq_ok.mpr ⟨by simp; omega, fun k hk => ?_⟩
  have hk' := hget (a + k) (by omega)
  rw [Nat.zero_add] at hk'
  rwa [List.getElem?_take_of_lt hk, List.getElem?_drop]

/-- Every byte of a held payload is readable. -/
theorem readRx_of_rxHolds {s : State} {n i : Nat} {bytes : List Byte} (h : RxHolds s n bytes) (hi : i < n) :
    ∃ b, readRx s i = .ok b := by
  obtain ⟨hlen, hget⟩ := readRxRange_eq_ok.mp h
  obtain ⟨hcap, hread⟩ := hget i hi
  rw [Nat.zero_add] at hcap hread
  exact ⟨bytes[i], readRx_eq_ok.mpr ⟨hcap, hread.trans (List.getElem?_eq_getElem _)⟩⟩

theorem sfCheckPasses_iff {offset length total : Nat} :
    sfCheckPasses offset length total = true ↔ sfHdr ≤ length ∧ offset + length ≤ total := by
  simp [sfCheckPasses]

/-- A sub-frame that SF_CHECK lets pass lies in the payload, so it can be fetched (R104). -/
theorem fetchSubframe_completes {s : State} {total offset length : Nat} {bytes : List Byte}
    (h : RxHolds s total bytes) (hc : sfCheckPasses offset length total = true) :
    ∃ f, fetchSubframe s offset length = .ok f := by
  obtain ⟨hhdr, hin⟩ := sfCheckPasses_iff.mp hc
  have hfour : sfHdr = 4 := rfl
  obtain ⟨type, ht⟩ := readRx_of_rxHolds h (i := offset + 1) (by omega)
  obtain ⟨hash, hh⟩ := readRx_of_rxHolds h (i := offset + 2) (by omega)
  obtain ⟨command, hcmd⟩ := readRx_of_rxHolds h (i := offset + 3) (by omega)
  have hp := readRxRange_of_rxHolds h (a := offset + sfHdr) (m := length - sfHdr) (by omega)
  exact ⟨_, fetchSubframe_eq_ok ht hh hcmd hp⟩

theorem dispatchLoop_completes {rounds offset total : Nat} {s : State} {bytes : List Byte}
    (h : RxHolds s total bytes) : ∃ t, dispatchLoop rounds offset total s = .ok t := by
  induction rounds generalizing offset s with
  | zero => exact ⟨s, rfl⟩
  | succ rounds ih =>
    unfold dispatchLoop
    split
    · next hlt =>
      obtain ⟨length, hl⟩ := readRx_of_rxHolds h hlt
      simp only [hl]
      split
      · next hc =>
        obtain ⟨f, hf⟩ := fetchSubframe_completes h hc
        simp only [hf]
        exact ih (rxHolds_of_routed (routeSubframe_routed s f) h)
      · exact ⟨s, rfl⟩
    · exact ⟨s, rfl⟩

/-- DISPATCH completes whenever the payload and the accumulator are readable (R103, R109, R171). -/
theorem dispatchPacket_completes {s : State} {total : Nat} {bytes pend : List Byte} (hrx : RxHolds s total bytes)
    (htx : TxHolds s pend) : ∃ u, dispatchPacket s total = .ok u := by
  obtain ⟨t, ht⟩ := dispatchLoop_completes (rounds := total) (offset := 0) hrx
  obtain ⟨more, hmore⟩ := txHolds_of_routed (dispatchLoop_routed ht) htx
  obtain ⟨sent, u, hu⟩ := finalizePacket_completes hmore
  exact ⟨u, dispatchPacket_eq_ok.mpr ⟨t, sent, ht, hu⟩⟩

theorem dispatchPacket_pktReady {s u : State} {total : Nat} (h : dispatchPacket s total = .ok u) :
    u.pktReady = s.pktReady := by
  obtain ⟨t, sent, ht, hu⟩ := dispatchPacket_eq_ok.mp h
  exact (finalizePacket_pktReady hu).trans (routed_pktReady_eq (dispatchLoop_routed ht))

/-! ### A held payload is readable -/

/-- The capacity of `rx_buf` is a `u8` (R9). -/
theorem rxCapacity_le (cfg : Config) : cfg.rxCapacity ≤ 255 := by
  have hok := cfg.ok
  simp only [Params.inRange, Bool.and_eq_true, decide_eq_true_eq] at hok
  omega

theorem toNat_ofNat_length {payload : List Byte} {cfg : Config} (h : payload.length ≤ cfg.rxCapacity) :
    (BitVec.ofNat 8 payload.length).toNat = payload.length := by
  have hcap := rxCapacity_le cfg
  rw [BitVec.toNat_ofNat]
  exact Nat.mod_eq_of_lt (by omega)

/-- Bytes stored from index 0 on are held, where they fit (R26). -/
theorem rxHolds_writeAll {s h : State} {payload : List Byte} (hfit : payload.length ≤ s.cfg.rxCapacity)
    (hcfg : h.cfg = s.cfg) (hbuf : h.rxBuf = s.rxBuf.writeAll 0 payload) : RxHolds h payload.length payload := by
  refine readRxRange_eq_ok.mpr ⟨rfl, fun k hk => ?_⟩
  rw [hcfg, hbuf, Memory.read_writeAll, if_pos (by omega)]
  exact ⟨by omega, by simp⟩

/-- DISPATCH of a total in its range, where the dispatch completes (R103). -/
theorem exec_dispatch_of_ok {s u : State} {total : Nat} (hle : total ≤ s.cfg.rxCapacity)
    (hd : dispatchPacket s total = .ok u) : exec (.dispatch total) s = .next (withResult u .nothing) := by
  change execDispatch total s = _
  simp only [execDispatch, if_pos hle, hd]

/-- RUN_DISPATCH with a packet posted (R137). -/
theorem exec_runDispatch_of_ok {s u : State} (hready : s.pktReady = true)
    (hd : dispatchPacket s s.rxLen.toNat = .ok u) :
    exec .runDispatch s = .next (withResult { u with pktReady := false } (.bool true)) := by
  change execRunDispatch s = _
  simp only [execRunDispatch, hready, if_true, hd]

/-! ### A received byte -/

/-- With no packet posted a received byte is the decoder's (R85). -/
theorem deliverByte_of_not_ready {s : State} (hready : s.pktReady = false) (b : Byte) :
    deliverByte s b = finishStatus (decodeArm s b) := by
  simp [deliverByte, hready]

/-- In ReadPayload, with the declared bytes all stored, the byte is the checksum (R85, R89, R90). -/
theorem decodeArm_of_whole {s : State} (hstate : s.decState = .readPayload)
    (hwhole : ¬ s.rxCursor.toNat < s.rxLen.toNat) (b : Byte) : decodeArm s b = checkArm s b := by
  simp only [decodeArm, hstate, if_neg hwhole]

/-- COMPLETE in Inline mode is the dispatch of the declared length (R91). -/
theorem completeLink_of_inline {s : State} (hmode : s.cfg.dispatchMode = .inline) :
    completeLink s = dispatchPacket s s.rxLen.toNat := by
  simp only [completeLink, hmode]

/-- The matching checksum: the decoder is re-armed, the completion runs, the status is Done (R89). -/
theorem checkArm_of_complete {s u : State} (hc : completeLink { s with decState := .awaitHeader } = .ok u) :
    checkArm s s.cksAcc = .ok (.done, u) := by
  simp only [checkArm, if_true, checkMatchArm, hc]

/-! ### The step that dispatches a held payload -/

/-- The state in which the dispatch of a held payload begins: the port operation that runs it is taken and the decoder
is re-armed, which in Deferred mode it is already (R89, R137). -/
def dispatchEntry (s : State) (payload : List Byte) : State :=
  { takePending (holdPayload s payload) with decState := .awaitHeader }

theorem dispatchEntry_pending (s : State) (payload : List Byte) :
    (dispatchEntry s payload).pending = s.pending := by
  unfold dispatchEntry holdPayload
  split <;> rfl

theorem dispatchEntry_rxLen {s : State} {payload : List Byte} (hfit : payload.length ≤ s.cfg.rxCapacity) :
    (dispatchEntry s payload).rxLen.toNat = payload.length := by
  rw [dispatchEntry, takePending_rxLen, holdPayload_rxLen, toNat_ofNat_length hfit]

theorem dispatchEntry_rxHolds {s : State} {payload : List Byte} (hfit : payload.length ≤ s.cfg.rxCapacity) :
    RxHolds (dispatchEntry s payload) payload.length payload :=
  rxHolds_writeAll hfit (holdPayload_cfg s payload) (holdPayload_rxBuf s payload)

theorem dispatchEntry_sameBuilder (s : State) (payload : List Byte) : SameBuilder s (dispatchEntry s payload) :=
  ⟨holdPayload_txCursor s payload, holdPayload_txLen s payload,
    fun a => congrArg (Memory.read · a) (holdPayload_txBuf s payload)⟩

theorem dispatchEntry_sameOutside (s : State) (payload : List Byte) : SameOutside s (dispatchEntry s payload) :=
  ⟨holdPayload_cfg s payload, dispatchEntry_pending s payload, holdPayload_answers s payload,
    holdPayload_calls s payload⟩

theorem dispatchEntry_txHolds {s : State} {pend : List Byte} (payload : List Byte) (hp : TxHolds s pend) :
    TxHolds (dispatchEntry s payload) pend :=
  txHolds_congr (holdPayload_cfg s payload) (holdPayload_txBuf s payload) (holdPayload_txCursor s payload) hp

/-- Inline: a held payload is a packet received up to its checksum, which is in the accumulator (R88, log entry 8). -/
theorem holdPayload_inline {s : State} (hmode : s.cfg.dispatchMode = .inline) (payload : List Byte) :
    (holdPayload s payload).pending = .wire (holdPayload s payload).cksAcc :: s.pending ∧
      (holdPayload s payload).decState = .readPayload ∧
      (holdPayload s payload).rxCursor = (holdPayload s payload).rxLen ∧ (holdPayload s payload).pktReady = false := by
  simp [holdPayload, hmode, issueFirst]

/-- In ReadPayload, with the declared bytes all stored, a received byte is named the checksum (R71). -/
theorem decodeStimulus_wire_of_whole {s : State} (hstate : s.decState = .readPayload)
    (hwhole : ¬ s.rxCursor.toNat < s.rxLen.toNat) (b : Byte) :
    decodeStimulus (decodeContext s) (.wire b) = .pktChecksum b := by
  simp only [decodeStimulus, decodeWire, decodeContext, wirePosition, hstate, if_neg hwhole]

/-- The step that takes the matching checksum of a whole packet re-arms, runs the completion and answers Done (R17, R89). -/
theorem step_of_matching_checksum {w u : State} {rest : List Stimulus} (hissued : w.pending = .wire w.cksAcc :: rest)
    (hstate : w.decState = .readPayload) (hwhole : ¬ w.rxCursor.toNat < w.rxLen.toNat) (hready : w.pktReady = false)
    (hc : completeLink { takePending w with decState := .awaitHeader } = .ok u) :
    step w = .next (withResult u (.status .done)) := by
  have hdone : decodeArm (takePending w) w.cksAcc = .ok (.done, u) :=
    (decodeArm_of_whole (s := takePending w) hstate hwhole w.cksAcc).trans (checkArm_of_complete hc)
  calc step w
      = exec (.pktChecksum w.cksAcc) (takePending w) := by
        rw [step_takes hissued, decodeStimulus_wire_of_whole hstate hwhole]
    _ = finishStatus (decodeArm (takePending w) w.cksAcc) :=
        deliverByte_of_not_ready (s := takePending w) hready w.cksAcc
    _ = .next (withResult u (.status .done)) := by
        rw [hdone]
        rfl

/-- Inline: the step is the DECODE_BYTE of the matching checksum, which dispatches and answers Done (R89, R91). -/
theorem step_holdPayload_inline {s v : State} {payload : List Byte} (hmode : s.cfg.dispatchMode = .inline)
    (hd : dispatchPacket (dispatchEntry s payload) (dispatchEntry s payload).rxLen.toNat = .ok v) :
    step (holdPayload s payload) = .next (withResult { v with pktReady := false } (.status .done)) := by
  obtain ⟨hissued, hstate, hcursor, hready⟩ := holdPayload_inline hmode payload
  have hwhole : ¬ (holdPayload s payload).rxCursor.toNat < (holdPayload s payload).rxLen.toNat := by
    rw [hcursor]
    exact Nat.lt_irrefl _
  have hv : { v with pktReady := false } = v := by rw [← (dispatchPacket_pktReady hd).trans hready]
  have hinline : (dispatchEntry s payload).cfg.dispatchMode = .inline := by simpa [dispatchEntry] using hmode
  rw [hv]
  exact step_of_matching_checksum hissued hstate hwhole hready ((completeLink_of_inline hinline).trans hd)

/-- Deferred: the step is RUN_DISPATCH, which dispatches, clears `pkt_ready` and answers true (R137). -/
theorem step_holdPayload_deferred {s v : State} {payload : List Byte} (hmode : s.cfg.dispatchMode = .deferred)
    (hd : dispatchPacket (dispatchEntry s payload) (dispatchEntry s payload).rxLen.toNat = .ok v) :
    step (holdPayload s payload) = .next (withResult { v with pktReady := false } (.bool true)) := by
  have hstep : step (holdPayload s payload) = exec .runDispatch (dispatchEntry s payload) := by
    simp only [holdPayload, dispatchEntry, hmode]
    exact step_issueFirst _ _
  have hready : (dispatchEntry s payload).pktReady = true := by simp [dispatchEntry, holdPayload, hmode]
  rw [hstep]
  exact exec_runDispatch_of_ok hready hd

/-- Settles O55: the dispatch from `dispatchEntry` completes, and the step is that dispatch inside its port operation. -/
theorem stepDispatchesTheHeldPayload : Obligations.StepDispatchesTheHeldPayload := by
  intro s payload pend hfit hp
  have hrx := dispatchEntry_rxHolds hfit
  obtain ⟨v, hv⟩ := dispatchPacket_completes hrx (dispatchEntry_txHolds payload hp)
  have hlen : (dispatchEntry s payload).rxLen.toNat = payload.length := dispatchEntry_rxLen hfit
  have hcap : payload.length ≤ (dispatchEntry s payload).cfg.rxCapacity := by
    rw [(dispatchEntry_sameOutside s payload).1]
    exact hfit
  refine ⟨dispatchEntry s payload, withResult v .nothing, hrx, dispatchEntry_sameBuilder s payload,
    holdPayload_table s payload, holdPayload_trace s payload, dispatchEntry_sameOutside s payload,
    exec_dispatch_of_ok hcap hv, ?_⟩
  rw [← hlen] at hv
  cases hmode : s.cfg.dispatchMode with
  | inline => exact step_holdPayload_inline hmode hv
  | deferred => exact step_holdPayload_deferred hmode hv

/-! ### Operations that complete under the invariant -/

/-- DEC_PAYLOAD completes while the cursor is inside the declared length, which is inside the buffer (R38, R47). -/
theorem payloadArm_completes {s : State} (b : Byte) (h : s.rxCursor.toNat < s.cfg.rxCapacity) :
    ∃ status t, payloadArm s b = .ok (status, t) := by
  simp only [payloadArm, writeRx, if_pos h]
  exact ⟨_, _, rfl⟩

/-- COMPLETE completes over a readable payload and accumulator: it dispatches or posts (R91). -/
theorem completeLink_completes {s : State} {bytes pend : List Byte} (hrx : RxHolds s s.rxLen.toNat bytes)
    (htx : TxHolds s pend) : ∃ t, completeLink s = .ok t := by
  unfold completeLink
  split
  · exact dispatchPacket_completes hrx htx
  · exact ⟨_, rfl⟩

theorem checkArm_completes {s : State} {bytes pend : List Byte} (b : Byte) (hrx : RxHolds s s.rxLen.toNat bytes)
    (htx : TxHolds s pend) : ∃ status t, checkArm s b = .ok (status, t) := by
  obtain ⟨t, ht⟩ : ∃ t, completeLink { s with decState := .awaitHeader } = .ok t :=
    completeLink_completes (rxHolds_congr (s := s) rfl rfl hrx) (txHolds_congr (s := s) rfl rfl rfl htx)
  unfold checkArm
  split
  · exact ⟨.done, t, by simp only [checkMatchArm, ht]⟩
  · exact ⟨_, _, rfl⟩

/-- Under the invariant the whole declared payload is readable once the cursor has reached its length (R38 (ii)). -/
theorem rxHolds_of_whole {s : State} (h : Inv s) (hstate : s.decState = .readPayload)
    (hwhole : ¬ s.rxCursor.toNat < s.rxLen.toNat) : ∃ bytes, RxHolds s s.rxLen.toNat bytes := by
  obtain ⟨hle, bytes, hrx, _⟩ := h.in_packet hstate
  have hcursor : s.rxCursor.toNat = s.rxLen.toNat := by omega
  exact ⟨bytes, hcursor ▸ hrx⟩

/-- Under the invariant the decoder takes any byte, in each of its states (R85, R171). -/
theorem decodeArm_completes {s : State} (h : Inv s) (b : Byte) : ∃ status t, decodeArm s b = .ok (status, t) := by
  cases hstate : s.decState with
  | awaitHeader => exact ⟨_, _, by simp only [decodeArm, hstate]; rfl⟩
  | awaitLength => exact ⟨_, _, by simp only [decodeArm, hstate]; rfl⟩
  | readPayload =>
    by_cases hin : s.rxCursor.toNat < s.rxLen.toNat
    · simp only [decodeArm, hstate, if_pos hin]
      exact payloadArm_completes b (Nat.lt_of_lt_of_le hin h.rx_len)
    · obtain ⟨bytes, hrx⟩ := rxHolds_of_whole h hstate hin
      obtain ⟨frames, htx, _⟩ := h.accumulated
      rw [decodeArm_of_whole hstate hin]
      exact checkArm_completes b hrx htx

theorem deliverByte_completes {s : State} (h : Inv s) (hready : s.pktReady = false) (b : Byte) :
    ∃ t, deliverByte s b = .next t := by
  obtain ⟨status, t, hd⟩ := decodeArm_completes h b
  rw [deliverByte_of_not_ready hready, hd]
  exact ⟨_, rfl⟩

theorem execBuild_completes {s : State} (h : Inv s) : ∃ t, execBuild s = .next t := by
  obtain ⟨frames, htx, _⟩ := h.accumulated
  obtain ⟨sent, t, hf⟩ := finalizePacket_completes htx
  exact ⟨_, by simp only [execBuild, hf]; rfl⟩

/-- A posted packet's payload is readable, so RUN_DISPATCH completes; with none posted it answers false (R30, R137). -/
theorem execRunDispatch_completes {s : State} (h : Inv s) : ∃ t, execRunDispatch s = .next t := by
  cases hready : s.pktReady with
  | false => exact ⟨_, if_neg (by simp [hready])⟩
  | true =>
    obtain ⟨_, _, bytes, hrx⟩ := h.posted hready
    obtain ⟨frames, htx, _⟩ := h.accumulated
    obtain ⟨u, hu⟩ := dispatchPacket_completes hrx htx
    exact ⟨_, exec_runDispatch_of_ok hready hu⟩

/-- REGISTER of a handler completes, whether or not a slot is free (R100). -/
theorem execRegister_completes (hash : Byte) (handler : Handler) (context : Context) (s : State) :
    ∃ t, execRegister hash (some handler) context s = .next t := by
  unfold execRegister
  split
  · contradiction
  · split <;> exact ⟨_, rfl⟩

theorem execAddData_completes {payload : List Byte} {n : Byte} (hash command : Byte) (hlen : payload.length = n.toNat)
    (s : State) : ∃ t, execAddData hash command payload n s = .next t :=
  ⟨_, if_pos hlen⟩

theorem execDecReset_completes {s : State} (hready : s.pktReady = false) : ∃ t, execDecReset s = .next t :=
  ⟨_, if_neg (by simp [hready])⟩

/-- What the rights of R158 say of an operation some agent may issue: its row names that agent, and an operation barred
while a packet is posted finds none posted (R176 (a)). -/
theorem mayIssue_elim {agent : Agent} {moment : Moment} {i : Instr} {s : State}
    (h : mayIssue agent moment i s = true) : agent ∈ (rights i).1 ∧ ((rights i).2 = true → s.pktReady = false) := by
  simp only [mayIssue, Bool.and_eq_true, decide_eq_true_eq] at h
  obtain ⟨⟨⟨hmem, hbarred⟩, _⟩, _⟩ := h
  exact ⟨hmem, fun hb => by simpa [hb] using hbarred⟩

/-- Settles O48, row by row of R158: the rows of no agent are vacuous, and each other row completes. -/
theorem admittedOperationsComplete : Obligations.AdmittedOperationsComplete := by
  intro s agent moment i hinv hmay hwf
  obtain ⟨hagent, hready⟩ := mayIssue_elim hmay
  cases i with
  | reset => exact ⟨_, rfl⟩
  | decodeByte b => exact deliverByte_completes hinv (hready rfl) b
  | register hash handler context =>
    obtain ⟨hd, rfl⟩ := Option.isSome_iff_exists.mp hwf
    exact execRegister_completes hash hd context s
  | addData hash command payload n => exact execAddData_completes hash command (by simpa [Instr.wellFormed] using hwf) s
  | addRequest type hash command => exact ⟨_, rfl⟩
  | build => exact execBuild_completes hinv
  | decReset => exact execDecReset_completes (hready rfl)
  | runDispatch => exact execRunDispatch_completes hinv
  | pktHeader => exact deliverByte_completes hinv (hready rfl) s.cfg.header
  | pktLength b => exact deliverByte_completes hinv (hready rfl) b
  | pktPayload b => exact deliverByte_completes hinv (hready rfl) b
  | pktChecksum b => exact deliverByte_completes hinv (hready rfl) b
  | _ => cases hagent

end Sys2Proof.Proofs

/-! What an operation leaves alone (R25, R26, R35, R39, R50), and the statements on it: O51, O52, O53. -/

namespace Sys2Proof.Proofs

open Sys2Proof.Machine Sys2Proof.Safety

/-! ### What an operation leaves alone -/

/-- The parameters, the operations issued and `rx_cap` are as before and the trace has at most grown: what every operation
but RESET guarantees (R25, R35, R39). -/
structure Advances (s t : State) : Prop where
  cfg : t.cfg = s.cfg
  pending : t.pending = s.pending
  rxCap : t.rxCap = s.rxCap
  trace : s.trace <+: t.trace

/-- The same, with `rx_buf` as before (R50). -/
structure KeepsRxBuf (s t : State) : Prop extends Advances s t where
  rxBuf : t.rxBuf = s.rxBuf

/-- The parameters, the decoder's registers, `rx_buf` and `pkt_ready` are as before: all that the decoder's part of the
invariant reads. -/
structure SameReceiver (s t : State) : Prop where
  cfg : t.cfg = s.cfg
  decState : t.decState = s.decState
  cksAcc : t.cksAcc = s.cksAcc
  rxCursor : t.rxCursor = s.rxCursor
  rxLen : t.rxLen = s.rxLen
  rxCap : t.rxCap = s.rxCap
  rxBuf : t.rxBuf = s.rxBuf
  pktReady : t.pktReady = s.pktReady

/-- Besides the receiver the table and the operations issued are as before, and the trace has at most grown: what a dispatch,
a handler call and the builder guarantee (R50). -/
structure BuilderOnly (s t : State) : Prop extends SameReceiver s t where
  table : t.table = s.table
  pending : t.pending = s.pending
  trace : s.trace <+: t.trace

theorem SameReceiver.trans {s t u : State} (h : SameReceiver s t) (g : SameReceiver t u) : SameReceiver s u where
  cfg := g.cfg.trans h.cfg
  decState := g.decState.trans h.decState
  cksAcc := g.cksAcc.trans h.cksAcc
  rxCursor := g.rxCursor.trans h.rxCursor
  rxLen := g.rxLen.trans h.rxLen
  rxCap := g.rxCap.trans h.rxCap
  rxBuf := g.rxBuf.trans h.rxBuf
  pktReady := g.pktReady.trans h.pktReady

theorem BuilderOnly.refl (s : State) : BuilderOnly s s :=
  ⟨⟨rfl, rfl, rfl, rfl, rfl, rfl, rfl, rfl⟩, rfl, rfl, List.prefix_rfl⟩

theorem BuilderOnly.trans {s t u : State} (h : BuilderOnly s t) (g : BuilderOnly t u) : BuilderOnly s u where
  toSameReceiver := h.toSameReceiver.trans g.toSameReceiver
  table := g.table.trans h.table
  pending := g.pending.trans h.pending
  trace := h.trace.trans g.trace

theorem BuilderOnly.keepsRxBuf {s t : State} (h : BuilderOnly s t) : KeepsRxBuf s t :=
  ⟨⟨h.cfg, h.pending, h.rxCap, h.trace⟩, h.rxBuf⟩

theorem KeepsRxBuf.refl (s : State) : KeepsRxBuf s s := ⟨⟨rfl, rfl, rfl, List.prefix_rfl⟩, rfl⟩

theorem Advances.withResult {s t : State} (h : Advances s t) (r : Result) : Advances s (withResult t r) :=
  ⟨h.cfg, h.pending, h.rxCap, h.trace⟩

theorem KeepsRxBuf.withResult {s t : State} (h : KeepsRxBuf s t) (r : Result) : KeepsRxBuf s (withResult t r) :=
  ⟨h.toAdvances.withResult r, h.rxBuf⟩

theorem builderOnly_of_routed {s t : State} (h : Routed s t) : BuilderOnly s t := by
  obtain ⟨frames, calls, rfl, _⟩ := h
  exact ⟨⟨rfl, rfl, rfl, rfl, rfl, rfl, rfl, rfl⟩, rfl, rfl, List.prefix_append ..⟩

theorem builderOnly_of_sendPacket {s t : State} (h : sendPacket s = .ok t) : BuilderOnly s t := by
  obtain ⟨bytes, _, rfl⟩ := sendPacket_eq_ok.mp h
  exact ⟨⟨rfl, rfl, rfl, rfl, rfl, rfl, rfl, rfl⟩, rfl, rfl, List.prefix_append ..⟩

theorem builderOnly_of_finalizePacket {s t : State} {sent : Bool} (h : finalizePacket s = .ok (sent, t)) :
    BuilderOnly s t := by
  obtain ⟨_, rfl⟩ | ⟨_, sum, packet, rfl⟩ := finalizePacket_cases h
  · exact BuilderOnly.refl t
  · exact ⟨⟨rfl, rfl, rfl, rfl, rfl, rfl, rfl, rfl⟩, rfl, rfl, List.prefix_append ..⟩

theorem builderOnly_of_dispatchPacket {s u : State} {total : Nat} (h : dispatchPacket s total = .ok u) :
    BuilderOnly s u := by
  obtain ⟨t, sent, hloop, hfinal⟩ := dispatchPacket_eq_ok.mp h
  exact (builderOnly_of_routed (dispatchLoop_routed hloop)).trans (builderOnly_of_finalizePacket hfinal)

/-! ### An operation that answers a next state -/

theorem finishBool_eq_next {r : Except Fault (Bool × State)} {t : State} :
    finishBool r = .next t ↔ ∃ b u, r = .ok (b, u) ∧ t = withResult u (.bool b) := by
  rcases r with f | ⟨b, u⟩ <;> simp [finishBool, eq_comm]

theorem finishStatus_eq_next {r : Except Fault (Status × State)} {t : State} :
    finishStatus r = .next t ↔ ∃ st u, r = .ok (st, u) ∧ t = withResult u (.status st) := by
  rcases r with f | ⟨st, u⟩ <;> simp [finishStatus, eq_comm]

theorem deliverByte_eq_next {s t : State} {b : Byte} :
    deliverByte s b = .next t ↔
      s.pktReady = false ∧ ∃ st u, decodeArm s b = .ok (st, u) ∧ t = withResult u (.status st) := by
  cases hready : s.pktReady <;> simp [deliverByte, hready, finishStatus_eq_next]

theorem execRegister_eq_next {hash : Byte} {handler : Option Handler} {context : Context} {s t : State}
    (h : execRegister hash handler context s = .next t) :
    (∃ hd table, fillFirst ⟨hash, hd, context⟩ s.table = some table ∧
      t = withResult { s with table := table } (.bool true)) ∨ t = withResult s (.bool false) := by
  unfold execRegister at h
  split at h
  · cases h
  · next hd =>
    split at h
    · next table hfill =>
      cases h
      exact .inl ⟨hd, table, hfill, rfl⟩
    · cases h
      exact .inr rfl

theorem execAddData_eq_next {hash command : Byte} {payload : List Byte} {n : Byte} {s t : State}
    (h : execAddData hash command payload n s = .next t) :
    payload.length = n.toNat ∧ ∃ b u, addDataFrame s hash command payload payload.length = (b, u) ∧
      t = withResult u (.bool b) := by
  unfold execAddData at h
  split at h
  · next hlen =>
    rw [← hlen] at h
    obtain ⟨b, u, hadd, rfl⟩ := finishBool_eq_next.mp h
    exact ⟨hlen, b, u, by simpa using hadd, rfl⟩
  · cases h

theorem execRunDispatch_eq_next {s t : State} (h : execRunDispatch s = .next t) :
    (∃ u, dispatchPacket s s.rxLen.toNat = .ok u ∧ t = withResult { u with pktReady := false } (.bool true)) ∨
      t = withResult s (.bool false) := by
  unfold execRunDispatch at h
  split at h
  · split at h
    · next u hd =>
      cases h
      exact .inl ⟨u, hd, rfl⟩
    · cases h
  · cases h
    exact .inr rfl

theorem execDispatch_eq_next {total : Nat} {s t : State} (h : execDispatch total s = .next t) :
    ∃ u, dispatchPacket s total = .ok u ∧ t = withResult u .nothing := by
  unfold execDispatch at h
  split at h
  · split at h
    · next u hd =>
      cases h
      exact ⟨u, hd, rfl⟩
    · cases h
  · cases h

theorem execComplete_eq_next {s t : State} (h : execComplete s = .next t) :
    ∃ u, completeLink s = .ok u ∧ t = withResult u .nothing := by
  unfold execComplete at h
  split at h
  · next u hc =>
    cases h
    exact ⟨u, hc, rfl⟩
  · cases h

theorem execTxSend_eq_next {s t : State} (h : execTxSend s = .next t) :
    ∃ u, sendPacket s = .ok u ∧ t = withResult u .nothing := by
  unfold execTxSend at h
  split at h
  · next u hsend =>
    cases h
    exact ⟨u, hsend, rfl⟩
  · cases h

/-- An operation guarded by the condition that selects it ran, so the condition held. -/
theorem next_of_guarded {p : Prop} [Decidable p] {o : Host.Outcome State Fault Refusal} {r : Refusal} {t : State}
    (h : (if p then o else .refused r) = .next t) : p ∧ o = .next t := by
  split at h
  · next hp => exact ⟨hp, h⟩
  · cases h

/-- An operation refused under a condition ran, so the condition did not hold. -/
theorem next_of_not_refused {p : Prop} [Decidable p] {o : Host.Outcome State Fault Refusal} {r : Refusal} {t : State}
    (h : (if p then .refused r else o) = .next t) : ¬ p ∧ o = .next t := by
  split at h
  · cases h
  · next hp => exact ⟨hp, h⟩


/-! ### The decoder's arms -/

theorem completeLink_keepsRxBuf {s t : State} (h : completeLink s = .ok t) : KeepsRxBuf s t := by
  unfold completeLink at h
  split at h
  · exact (builderOnly_of_dispatchPacket h).keepsRxBuf
  · cases h
    exact ⟨⟨rfl, rfl, rfl, List.prefix_rfl⟩, rfl⟩

theorem headerArm_keepsRxBuf (s : State) (b : Byte) : KeepsRxBuf s (headerArm s b).2 := by
  unfold headerArm
  split <;> exact ⟨⟨rfl, rfl, rfl, List.prefix_rfl⟩, rfl⟩

theorem lengthArm_keepsRxBuf (s : State) (b : Byte) : KeepsRxBuf s (lengthArm s b).2 := by
  unfold lengthArm
  split <;> exact ⟨⟨rfl, rfl, rfl, List.prefix_rfl⟩, rfl⟩

theorem checkMismatchArm_keepsRxBuf (s : State) : KeepsRxBuf s (checkMismatchArm s).2 :=
  ⟨⟨rfl, rfl, rfl, List.prefix_rfl⟩, rfl⟩

/-- A matching checksum answers what COMPLETE leaves of the re-armed state (R89). -/
theorem checkMatchArm_eq_ok {s t : State} {st : Status} (h : checkMatchArm s = .ok (st, t)) :
    completeLink { s with decState := .awaitHeader } = .ok t := by
  unfold checkMatchArm at h
  split at h
  · cases h
  · next u hc =>
    cases h
    exact hc

theorem checkMatchArm_keepsRxBuf {s t : State} {st : Status} (h : checkMatchArm s = .ok (st, t)) :
    KeepsRxBuf s t := by
  have hc := completeLink_keepsRxBuf (checkMatchArm_eq_ok h)
  exact ⟨⟨hc.cfg, hc.pending, hc.rxCap, hc.trace⟩, hc.rxBuf⟩

/-- DEC_PAYLOAD stores its byte at the cursor, inside the buffer, adds it up and advances (R88). -/
theorem payloadArm_eq_ok {s t : State} {b : Byte} {st : Status} (h : payloadArm s b = .ok (st, t)) :
    s.rxCursor.toNat < s.cfg.rxCapacity ∧ t = { s with
      rxBuf := s.rxBuf.write s.rxCursor.toNat b, cksAcc := cksStep s.cksAcc b, rxCursor := s.rxCursor + 1 } := by
  unfold payloadArm writeRx at h
  by_cases hin : s.rxCursor.toNat < s.cfg.rxCapacity
  · rw [if_pos hin] at h
    cases h
    exact ⟨hin, rfl⟩
  · rw [if_neg hin] at h
    cases h

theorem payloadArm_advances {s t : State} {b : Byte} {st : Status} (h : payloadArm s b = .ok (st, t)) :
    Advances s t := by
  obtain ⟨_, rfl⟩ := payloadArm_eq_ok h
  exact ⟨rfl, rfl, rfl, List.prefix_rfl⟩

/-- The arm that takes a byte, by the decoder's state: the header's, the length's, a payload byte's, or one of the two
outcomes of the checksum (R85). -/
theorem decodeArm_cases {s t : State} {b : Byte} {st : Status} (h : decodeArm s b = .ok (st, t)) :
    (s.decState = .awaitHeader ∧ t = (headerArm s b).2) ∨ (s.decState = .awaitLength ∧ t = (lengthArm s b).2) ∨
      (s.decState = .readPayload ∧ s.rxCursor.toNat < s.rxLen.toNat ∧ payloadArm s b = .ok (st, t)) ∨
      (s.decState = .readPayload ∧ ¬ s.rxCursor.toNat < s.rxLen.toNat ∧ checkMatchArm s = .ok (st, t)) ∨
      (s.decState = .readPayload ∧ ¬ s.rxCursor.toNat < s.rxLen.toNat ∧ t = (checkMismatchArm s).2) := by
  unfold decodeArm at h
  split at h
  · next hstate => exact .inl ⟨hstate, (congrArg Prod.snd (Except.ok.inj h)).symm⟩
  · next hstate => exact .inr (.inl ⟨hstate, (congrArg Prod.snd (Except.ok.inj h)).symm⟩)
  · next hstate =>
    split at h
    · next hin => exact .inr (.inr (.inl ⟨hstate, hin, h⟩))
    · next hwhole =>
      unfold checkArm at h
      split at h
      · exact .inr (.inr (.inr (.inl ⟨hstate, hwhole, h⟩)))
      · exact .inr (.inr (.inr (.inr ⟨hstate, hwhole, (congrArg Prod.snd (Except.ok.inj h)).symm⟩)))

theorem deliverByte_advances {s t : State} {b : Byte} (h : deliverByte s b = .next t) : Advances s t := by
  obtain ⟨_, st, u, harm, rfl⟩ := deliverByte_eq_next.mp h
  refine Advances.withResult ?_ _
  obtain ⟨_, rfl⟩ | ⟨_, rfl⟩ | ⟨_, _, hp⟩ | ⟨_, _, hc⟩ | ⟨_, _, rfl⟩ := decodeArm_cases harm
  · exact (headerArm_keepsRxBuf s b).toAdvances
  · exact (lengthArm_keepsRxBuf s b).toAdvances
  · exact payloadArm_advances hp
  · exact (checkMatchArm_keepsRxBuf hc).toAdvances
  · exact (checkMismatchArm_keepsRxBuf s).toAdvances

/-! ### Every operation -/

/-- The rows that deliver a byte to the decoder (R85, R88, R94). -/
def DeliversByte (i : Instr) : Prop :=
  i = .pktHeader ∨
    ∃ b, i = .decodeByte b ∨ i = .decPayload b ∨ i = .pktLength b ∨ i = .pktPayload b ∨ i = .pktChecksum b

theorem keepsRxBuf_of_next {s t u : State} {r : Result} (hu : KeepsRxBuf s u)
    (h : Host.Outcome.next (withResult u r) = (.next t : Host.Outcome State Fault Refusal)) : KeepsRxBuf s t := by
  cases h
  exact hu.withResult r

theorem presentSubframe_keepsRxBuf (s : State) (length type hash command : Byte) (rest : List Byte) :
    KeepsRxBuf s (presentSubframe s length type hash command rest) :=
  (builderOnly_of_routed (presentSubframe_routed ..)).keepsRxBuf

theorem callHandler_keepsRxBuf (s : State) (c : HandlerCall) : KeepsRxBuf s (callHandler s c) :=
  (builderOnly_of_routed (callHandler_routed ..)).keepsRxBuf

theorem addFrame_keepsRxBuf (s : State) (type hash command : Byte) (payload : List Byte) (n : Nat) :
    KeepsRxBuf s (addFrame s type hash command payload n).2 := by
  unfold addFrame
  split <;> exact ⟨⟨rfl, rfl, rfl, List.prefix_rfl⟩, rfl⟩

/-- Whatever is no RESET and delivers no byte leaves the parameters, the issued operations, `rx_cap` and `rx_buf` as they
were, and at most adds events to the trace. -/
theorem exec_keepsRxBuf {i : Instr} {s t : State} (hreset : i ≠ .reset) (hquiet : ¬ DeliversByte i)
    (h : exec i s = .next t) : KeepsRxBuf s t := by
  cases i with
  | reset => exact absurd rfl hreset
  | decodeByte b => exact absurd (.inr ⟨b, .inl rfl⟩) hquiet
  | decPayload b => exact absurd (.inr ⟨b, .inr (.inl rfl)⟩) hquiet
  | pktHeader => exact absurd (.inl rfl) hquiet
  | pktLength b => exact absurd (.inr ⟨b, .inr (.inr (.inl rfl))⟩) hquiet
  | pktPayload b => exact absurd (.inr ⟨b, .inr (.inr (.inr (.inl rfl)))⟩) hquiet
  | pktChecksum b => exact absurd (.inr ⟨b, .inr (.inr (.inr (.inr rfl)))⟩) hquiet
  | register hash handler context =>
    obtain ⟨_, table, _, rfl⟩ | rfl := execRegister_eq_next h
    · exact ⟨⟨rfl, rfl, rfl, List.prefix_rfl⟩, rfl⟩
    · exact (KeepsRxBuf.refl s).withResult _
  | addData hash command payload n =>
    obtain ⟨_, h⟩ := next_of_guarded h
    exact keepsRxBuf_of_next (addFrame_keepsRxBuf ..) h
  | addRequest type hash command => exact keepsRxBuf_of_next (addFrame_keepsRxBuf ..) h
  | add type hash command payload n =>
    obtain ⟨_, h⟩ := next_of_guarded h
    exact keepsRxBuf_of_next (addFrame_keepsRxBuf ..) h
  | build | finalize =>
    obtain ⟨sent, u, hf, rfl⟩ := finishBool_eq_next.mp h
    exact (builderOnly_of_finalizePacket hf).keepsRxBuf.withResult _
  | txSend =>
    obtain ⟨u, hsend, rfl⟩ := execTxSend_eq_next h
    exact (builderOnly_of_sendPacket hsend).keepsRxBuf.withResult _
  | decReset =>
    obtain ⟨_, h⟩ := next_of_not_refused h
    cases h
    exact ⟨⟨rfl, rfl, rfl, List.prefix_rfl⟩, rfl⟩
  | runDispatch =>
    obtain ⟨u, hd, rfl⟩ | rfl := execRunDispatch_eq_next h
    · have hu := (builderOnly_of_dispatchPacket hd).keepsRxBuf
      exact ⟨⟨hu.cfg, hu.pending, hu.rxCap, hu.trace⟩, hu.rxBuf⟩
    · exact (KeepsRxBuf.refl s).withResult _
  | unassignedOp code => cases h
  | checksum bytes => exact keepsRxBuf_of_next (KeepsRxBuf.refl s) h
  | cksStep b =>
    cases h
    exact ⟨⟨rfl, rfl, rfl, List.prefix_rfl⟩, rfl⟩
  | decHeader b =>
    obtain ⟨_, h⟩ := next_of_guarded h
    exact keepsRxBuf_of_next (headerArm_keepsRxBuf s b) h
  | decLength b =>
    obtain ⟨_, h⟩ := next_of_guarded h
    exact keepsRxBuf_of_next (lengthArm_keepsRxBuf s b) h
  | decCheckMatch b =>
    obtain ⟨_, h⟩ := next_of_guarded h
    obtain ⟨st, u, hc, rfl⟩ := finishStatus_eq_next.mp h
    exact (checkMatchArm_keepsRxBuf hc).withResult _
  | decCheckMismatch b =>
    obtain ⟨_, h⟩ := next_of_guarded h
    exact keepsRxBuf_of_next (checkMismatchArm_keepsRxBuf s) h
  | complete =>
    obtain ⟨u, hc, rfl⟩ := execComplete_eq_next h
    exact (completeLink_keepsRxBuf hc).withResult _
  | lookup hash =>
    obtain ⟨_, h⟩ := next_of_not_refused h
    exact keepsRxBuf_of_next (KeepsRxBuf.refl s) h
  | dispatch total =>
    obtain ⟨u, hd, rfl⟩ := execDispatch_eq_next h
    exact (builderOnly_of_dispatchPacket hd).keepsRxBuf.withResult _
  | sfCheck offset length total => exact keepsRxBuf_of_next (KeepsRxBuf.refl s) h
  | sfAlive command => exact keepsRxBuf_of_next (builderOnly_of_routed (answerAlive_routed s command)).keepsRxBuf h
  | sfKnown slot type command payload =>
    simp only [exec, execSfKnown] at h
    split at h
    · exact keepsRxBuf_of_next (callHandler_keepsRxBuf ..) h
    · cases h
  | sfUnknown hash command =>
    obtain ⟨_, h⟩ := next_of_guarded h
    exact keepsRxBuf_of_next (builderOnly_of_routed (answerUnknown_routed s hash command)).keepsRxBuf h
  | callHandler handler context type command payload => exact keepsRxBuf_of_next (callHandler_keepsRxBuf ..) h
  | sfData | sfAck | sfNack | sfRequest | sfEmpty | sfClassAlive => exact keepsRxBuf_of_next (presentSubframe_keepsRxBuf ..) h
  | sfClassRegistered | sfClassUnregistered =>
    obtain ⟨_, h⟩ := next_of_guarded h
    exact keepsRxBuf_of_next (presentSubframe_keepsRxBuf ..) h

/-- Every operation but RESET, the rows that deliver a byte included (R25, R35, R39). -/
theorem exec_advances {i : Instr} {s t : State} (hreset : i ≠ .reset) (h : exec i s = .next t) : Advances s t := by
  by_cases hd : DeliversByte i
  · obtain rfl | ⟨b, rfl | rfl | rfl | rfl | rfl⟩ := hd
    · exact deliverByte_advances h
    · exact deliverByte_advances h
    · obtain ⟨_, h⟩ := next_of_guarded h
      obtain ⟨st, u, hp, rfl⟩ := finishStatus_eq_next.mp h
      exact (payloadArm_advances hp).withResult _
    · exact deliverByte_advances h
    · exact deliverByte_advances h
    · exact deliverByte_advances h
  · exact (exec_keepsRxBuf hreset hd h).toAdvances

/-- Settles O51. -/
theorem traceOnlyGrows : Obligations.TraceOnlyGrows := by
  intro i s t hreset h
  obtain ⟨events, htrace⟩ := (exec_advances hreset h).trace
  exact ⟨events, htrace.symm⟩

/-- Settles O52: an operation that changes a byte of `rx_buf` is none of those that keep it. -/
theorem receiveBufferIsTheDecoders : Obligations.ReceiveBufferIsTheDecoders := by
  intro i s t h hchanged
  obtain ⟨a, ha⟩ := hchanged
  by_contra hnone
  obtain ⟨hreset, hquiet⟩ := not_or.mp hnone
  exact ha (by rw [(exec_keepsRxBuf hreset hquiet h).rxBuf])

/-- Settles O53: RESET names neither the parameters nor the issued operations, and every other operation advances. -/
theorem parametersAreConstant : Obligations.ParametersAreConstant := by
  intro i s t h
  by_cases hreset : i = .reset
  · subst hreset
    cases h
    exact ⟨rfl, rfl, fun hne => absurd rfl hne⟩
  · have hadv := exec_advances hreset h
    exact ⟨hadv.cfg, hadv.pending, fun _ => hadv.rxCap⟩

end Sys2Proof.Proofs

/-! The invariant of R38, kept part by part of the state, and the statements on it: O47, O46, O56, O45. -/

namespace Sys2Proof.Proofs

open Sys2Proof.Machine Sys2Proof.Safety

/-! ### The parts of the invariant -/

/-- The clauses of `Inv` on the decoder, `rx_buf` and the posted packet (R25, R26, R30, R38 (ii) and (vi)). -/
structure ReceiverInv (s : State) : Prop where
  rx_wf : s.rxBuf.wf
  rx_inside : ∀ c ∈ s.rxBuf, c.1 < s.cfg.rxCapacity
  rx_cap : s.rxCap.toNat = s.cfg.rxCapacity
  rx_len : s.rxLen.toNat ≤ s.cfg.rxCapacity
  in_packet : s.decState = .readPayload →
    s.rxCursor.toNat ≤ s.rxLen.toNat ∧ ∃ bytes, RxHolds s s.rxCursor.toNat bytes ∧ s.cksAcc = checksum bytes
  posted : s.pktReady = true →
    s.cfg.dispatchMode = .deferred ∧ s.decState = .awaitHeader ∧ ∃ bytes, RxHolds s s.rxLen.toNat bytes

/-- The clauses of `Inv` on the builder and `tx_buf` (R27, R29, R38 (iii) and (iv)). -/
structure BuilderInv (s : State) : Prop where
  tx_wf : s.txBuf.wf
  tx_inside : ∀ c ∈ s.txBuf, c.1 < s.cfg.txBufSize
  accumulated : ∃ frames : List Subframe,
    TxHolds s (frames.flatMap subframeBytes) ∧ ∀ f ∈ frames, sfHdr + f.payload.length ≤ 255
  tx_len : s.txLen = 0 ∨ (5 ≤ s.txLen ∧ s.txLen ≤ 256)

/-- The clauses of `Inv` on the table (R31, R32, R38 (v)). -/
structure TableInv (s : State) : Prop where
  table_length : s.table.length = s.cfg.tableSlots
  table_prefix : ∃ (entries : List Entry) (free : Nat), s.table = entries.map some ++ List.replicate free none

theorem inv_iff {s : State} : Inv s ↔ ReceiverInv s ∧ BuilderInv s ∧ TableInv s := by
  constructor
  · intro h
    exact ⟨⟨h.rx_wf, h.rx_inside, h.rx_cap, h.rx_len, h.in_packet, h.posted⟩,
      ⟨h.tx_wf, h.tx_inside, h.accumulated, h.tx_len⟩, ⟨h.table_length, h.table_prefix⟩⟩
  · rintro ⟨hr, hb, ht⟩
    exact { rx_wf := hr.rx_wf, tx_wf := hb.tx_wf, rx_inside := hr.rx_inside, tx_inside := hb.tx_inside,
            rx_cap := hr.rx_cap, rx_len := hr.rx_len, in_packet := hr.in_packet, accumulated := hb.accumulated,
            tx_len := hb.tx_len, table_length := ht.table_length, table_prefix := ht.table_prefix,
            posted := hr.posted }

/-- The parameters and the builder's registers and buffer are the same: all that the builder's part reads. -/
structure SameAccumulator (s t : State) : Prop where
  cfg : t.cfg = s.cfg
  txBuf : t.txBuf = s.txBuf
  txCursor : t.txCursor = s.txCursor
  txLen : t.txLen = s.txLen

theorem receiverInv_congr {s t : State} (h : ReceiverInv s) (e : SameReceiver s t) : ReceiverInv t where
  rx_wf := by rw [e.rxBuf]; exact h.rx_wf
  rx_inside := by rw [e.rxBuf, e.cfg]; exact h.rx_inside
  rx_cap := by rw [e.rxCap, e.cfg]; exact h.rx_cap
  rx_len := by rw [e.rxLen, e.cfg]; exact h.rx_len
  in_packet := by
    rw [e.decState, e.rxCursor, e.rxLen, e.cksAcc]
    intro hstate
    obtain ⟨hle, bytes, hrx, hcks⟩ := h.in_packet hstate
    exact ⟨hle, bytes, rxHolds_congr e.cfg e.rxBuf hrx, hcks⟩
  posted := by
    rw [e.pktReady, e.cfg, e.decState, e.rxLen]
    intro hready
    obtain ⟨hmode, hstate, bytes, hrx⟩ := h.posted hready
    exact ⟨hmode, hstate, bytes, rxHolds_congr e.cfg e.rxBuf hrx⟩

theorem builderInv_congr {s t : State} (h : BuilderInv s) (e : SameAccumulator s t) : BuilderInv t where
  tx_wf := by rw [e.txBuf]; exact h.tx_wf
  tx_inside := by rw [e.txBuf, e.cfg]; exact h.tx_inside
  accumulated := by
    obtain ⟨frames, htx, hlen⟩ := h.accumulated
    exact ⟨frames, txHolds_congr e.cfg e.txBuf e.txCursor htx, hlen⟩
  tx_len := by rw [e.txLen]; exact h.tx_len

theorem tableInv_congr {s t : State} (h : TableInv s) (hcfg : t.cfg = s.cfg) (htable : t.table = s.table) :
    TableInv t where
  table_length := by rw [htable, hcfg]; exact h.table_length
  table_prefix := by rw [htable]; exact h.table_prefix

/-- An operation of the builder, a handler call or a dispatch has only the builder's part to keep. -/
theorem inv_of_builderOnly {s t : State} (h : Inv s) (e : BuilderOnly s t) (hb : BuilderInv t) : Inv t := by
  obtain ⟨hr, _, ht⟩ := inv_iff.mp h
  exact inv_iff.mpr ⟨receiverInv_congr hr e.toSameReceiver, hb, tableInv_congr ht e.cfg e.table⟩

/-- An operation of the decoder or the link has only the receiver's part to keep. -/
theorem inv_of_receiver {s t : State} (h : Inv s) (e : SameAccumulator s t) (htable : t.table = s.table)
    (hr : ReceiverInv t) : Inv t := by
  obtain ⟨_, hb, ht⟩ := inv_iff.mp h
  exact inv_iff.mpr ⟨hr, builderInv_congr hb e, tableInv_congr ht e.cfg htable⟩

/-- What an operation returns is no part of the invariant. -/
theorem inv_withResult {s : State} (h : Inv s) (r : Result) : Inv (withResult s r) :=
  inv_of_receiver h ⟨rfl, rfl, rfl, rfl⟩ rfl
    (receiverInv_congr (inv_iff.mp h).1 ⟨rfl, rfl, rfl, rfl, rfl, rfl, rfl, rfl⟩)

/-- What the outside has issued is no part of the invariant. -/
theorem inv_takePending {s : State} (h : Inv s) : Inv (takePending s) :=
  inv_of_receiver h ⟨rfl, rfl, rfl, rfl⟩ rfl
    (receiverInv_congr (inv_iff.mp h).1 ⟨rfl, rfl, rfl, rfl, rfl, rfl, rfl, rfl⟩)

/-! ### The builder -/

/-- `TX_LIMIT` leaves room for one sub-frame header and is at most what a length byte can count (R10). -/
theorem txLimit_bounds (cfg : Config) : hdrSize + sfHdr ≤ cfg.txLimit ∧ cfg.txLimit ≤ hdrSize + 255 := by
  have hok := cfg.ok
  simp only [Params.inRange, Bool.and_eq_true, decide_eq_true_eq] at hok
  omega

/-- Sub-frames appended behind whole sub-frames leave whole sub-frames (R38 (iv), R120). -/
theorem builderInv_of_routed {s t : State} (h : BuilderInv s) (hrouted : Routed s t) : BuilderInv t := by
  obtain ⟨more, calls, rfl, hlimit, hsmall⟩ := hrouted
  obtain ⟨frames, ⟨hlow, hhigh, hread⟩, hframes⟩ := h.accumulated
  have hfits : s.txCursor + (more.flatMap subframeBytes).length ≤ s.cfg.txLimit := hlimit hhigh
  refine ⟨Memory.wf_writeAll h.tx_wf _ _, fun c hc => ?_, ⟨frames ++ more, ⟨?_, hfits, ?_⟩, fun f hf => ?_⟩, h.tx_len⟩
  · rcases Memory.mem_writeAll hc with ⟨_, hend⟩ | hold
    · exact Nat.lt_succ_of_lt (Nat.lt_of_lt_of_le hend hfits)
    · exact h.tx_inside c hold
  · exact Nat.le_trans hlow (Nat.le_add_right ..)
  · rw [List.flatMap_append, routed_txCursor,
      readTxRange_congr (s := appendBytes s (more.flatMap subframeBytes))
        (t := routed s (more.flatMap subframeBytes) calls) rfl rfl]
    exact readTxRange_appendBytes hlow hread hfits
  · rcases List.mem_append.mp hf with hf | hf
    · exact hframes f hf
    · exact hsmall hlow f hf

/-- What is accumulated, if anything, is at least one sub-frame header long (R61). -/
theorem sfHdr_le_accumulated {s : State} {frames : List Subframe} (h : TxHolds s (frames.flatMap subframeBytes))
    (hlt : hdrSize < s.txCursor) : hdrSize + sfHdr ≤ s.txCursor := by
  obtain ⟨_, _, hread⟩ := h
  obtain ⟨hlen, _⟩ := readTxRange_eq_ok.mp hread
  cases frames with
  | nil =>
    simp only [List.flatMap_nil, List.length_nil] at hlen
    omega
  | cons f rest =>
    simp only [List.flatMap_cons, List.length_append, subframeBytes_length] at hlen
    omega

/-- A sealed packet has a `tx_len` of 5 to 256 and leaves an empty accumulator (R29, R124). -/
theorem builderInv_sealPacket {s : State} (h : BuilderInv s) (hlt : hdrSize < s.txCursor) (sum : Byte) :
    BuilderInv (sealPacket s (s.txCursor - hdrSize) sum) := by
  obtain ⟨frames, htx, _⟩ := h.accumulated
  have hfour := sfHdr_le_accumulated htx hlt
  obtain ⟨_, hhigh, _⟩ := htx
  have hlimit := txLimit_bounds s.cfg
  simp only [hdrSize, sfHdr] at hfour hlimit
  refine ⟨?_, fun c hc => ?_, ⟨[], ⟨Nat.le_refl _, ?_, ?_⟩, fun _ hf => nomatch hf⟩, .inr ?_⟩
  · exact Memory.wf_write (Memory.wf_write (Memory.wf_write h.tx_wf _ _) _ _) _ _
  · rw [sealPacket_txBuf] at hc
    simp only [sealPacket_cfg, Config.txBufSize]
    rcases Memory.mem_write hc with rfl | hc
    · exact Nat.lt_succ_of_le hhigh
    rcases Memory.mem_write hc with rfl | hc
    · show 1 < _
      omega
    rcases Memory.mem_write hc with rfl | hc
    · exact Nat.succ_pos _
    · exact h.tx_inside c hc
  · simp only [sealPacket_txCursor, sealPacket_cfg, hdrSize]
    omega
  · rfl
  · simp only [sealPacket_txLen, hdrSize]
    omega

theorem builderInv_of_finalizePacket {s t : State} {sent : Bool} (h : BuilderInv s)
    (hf : finalizePacket s = .ok (sent, t)) : BuilderInv t := by
  obtain ⟨frames, ⟨_, hhigh, hread⟩, _⟩ := h.accumulated
  rcases Nat.lt_or_ge hdrSize s.txCursor with hlt | hge
  · cases (finalizePacket_sends hlt hhigh hread).symm.trans hf
    exact builderInv_congr (builderInv_sealPacket h hlt _) ⟨rfl, rfl, rfl, rfl⟩
  · cases (finalizePacket_nothing hge).symm.trans hf
    exact h

theorem inv_of_routed {s t : State} (h : Inv s) (hrouted : Routed s t) : Inv t :=
  inv_of_builderOnly h (builderOnly_of_routed hrouted) (builderInv_of_routed (inv_iff.mp h).2.1 hrouted)

theorem inv_of_finalizePacket {s t : State} {sent : Bool} (h : Inv s) (hf : finalizePacket s = .ok (sent, t)) : Inv t :=
  inv_of_builderOnly h (builderOnly_of_finalizePacket hf) (builderInv_of_finalizePacket (inv_iff.mp h).2.1 hf)

theorem inv_of_dispatchPacket {s u : State} {total : Nat} (h : Inv s) (hd : dispatchPacket s total = .ok u) : Inv u := by
  obtain ⟨t, sent, hloop, hf⟩ := dispatchPacket_eq_ok.mp hd
  exact inv_of_finalizePacket (inv_of_routed h (dispatchLoop_routed hloop)) hf

/-! ### The table -/

/-- REGISTER fills the slot right behind the occupied ones (R32, R100). -/
theorem tableInv_of_fillFirst {s : State} {e : Entry} {table : List Slot} (h : TableInv s)
    (hfill : fillFirst e s.table = some table) : TableInv { s with table := table } := by
  obtain ⟨hlength, entries, free, hprefix⟩ := h
  rw [hprefix] at hfill hlength
  cases free with
  | zero =>
    have hfull : none ∉ entries.map some ++ List.replicate 0 none := by simp
    cases (fillFirst_eq_none.mpr hfull).symm.trans hfill
  | succ free =>
    cases (fillFirst_occupied_append e entries (List.replicate free none)).symm.trans hfill
    exact ⟨by simpa using hlength, entries ++ [e], free, by simp⟩

/-! ### The decoder -/

theorem checksum_append_singleton (bytes : List Byte) (b : Byte) :
    checksum (bytes ++ [b]) = cksStep (checksum bytes) b := by
  apply BitVec.eq_of_toNat_eq
  simp [checksum, cksStep]

/-- A byte stored right behind a held payload extends it (R88). -/
theorem rxHolds_write {s t : State} {n : Nat} {bytes : List Byte} {b : Byte} (h : RxHolds s n bytes)
    (hin : n < s.cfg.rxCapacity) (hcfg : t.cfg = s.cfg) (hbuf : t.rxBuf = s.rxBuf.write n b) :
    RxHolds t (n + 1) (bytes ++ [b]) := by
  obtain ⟨hlen, hget⟩ := readRxRange_eq_ok.mp h
  refine readRxRange_eq_ok.mpr ⟨by simp [hlen], fun k hk => ?_⟩
  rw [hcfg, hbuf, Memory.read_write, Nat.zero_add]
  rcases Nat.lt_or_ge k n with hlt | hge
  · have hold := hget k hlt
    rw [Nat.zero_add] at hold
    rwa [if_neg (by omega), List.getElem?_append_left (by omega)]
  · obtain rfl : k = n := by omega
    rw [if_pos rfl, ← hlen, List.getElem?_concat_length]
    exact ⟨by omega, rfl⟩

/-- With no packet posted, a decoder that is not in a payload keeps its part of the invariant, whatever its accumulator and
cursor are. -/
theorem receiverInv_outside_payload {s t : State} (h : ReceiverInv s) (hcfg : t.cfg = s.cfg) (hcap : t.rxCap = s.rxCap)
    (hlen : t.rxLen = s.rxLen) (hbuf : t.rxBuf = s.rxBuf) (hready : t.pktReady = false)
    (hstate : t.decState ≠ .readPayload) : ReceiverInv t where
  rx_wf := by rw [hbuf]; exact h.rx_wf
  rx_inside := by rw [hbuf, hcfg]; exact h.rx_inside
  rx_cap := by rw [hcap, hcfg]; exact h.rx_cap
  rx_len := by rw [hlen, hcfg]; exact h.rx_len
  in_packet := fun hin => absurd hin hstate
  posted := fun hposted => by rw [hready] at hposted; cases hposted

theorem headerArm_inv {s : State} (h : Inv s) (hready : s.pktReady = false) (b : Byte) : Inv (headerArm s b).2 := by
  unfold headerArm
  split
  · exact inv_of_receiver h ⟨rfl, rfl, rfl, rfl⟩ rfl
      (receiverInv_outside_payload (inv_iff.mp h).1 rfl rfl rfl rfl hready (fun hs => nomatch hs))
  · exact h

/-- The re-armed decoder, after a packet, an error or DEC_RESET (R87, R89, R90, R136). -/
theorem inv_rearm {s : State} (h : Inv s) (hready : s.pktReady = false) (acc cursor : Byte) :
    Inv { s with decState := .awaitHeader, cksAcc := acc, rxCursor := cursor } :=
  inv_of_receiver h ⟨rfl, rfl, rfl, rfl⟩ rfl
    (receiverInv_outside_payload (inv_iff.mp h).1 rfl rfl rfl rfl hready (fun hs => nomatch hs))

/-- An accepted length is within `rx_cap`, which is RX_CAP, and no byte is stored yet (R87). -/
theorem lengthArm_inv {s : State} (h : Inv s) (hready : s.pktReady = false) (b : Byte) : Inv (lengthArm s b).2 := by
  unfold lengthArm
  split
  · exact inv_rearm h hready s.cksAcc s.rxCursor
  · next hle =>
    have hcap : b.toNat ≤ s.cfg.rxCapacity := by
      rw [← h.rx_cap]
      omega
    refine inv_of_receiver h ⟨rfl, rfl, rfl, rfl⟩ rfl ⟨h.rx_wf, h.rx_inside, h.rx_cap, hcap, fun _ => ?_, fun hp => ?_⟩
    · exact ⟨Nat.zero_le _, [], rfl, rfl⟩
    · cases hready.symm.trans hp

/-- A payload byte extends the stored bytes and their checksum (R38 (ii), R88). -/
theorem payloadArm_inv {s t : State} {b : Byte} {st : Status} (h : Inv s) (hready : s.pktReady = false)
    (hstate : s.decState = .readPayload) (hin : s.rxCursor.toNat < s.rxLen.toNat)
    (hp : payloadArm s b = .ok (st, t)) : Inv t := by
  obtain ⟨hcap, rfl⟩ := payloadArm_eq_ok hp
  obtain ⟨_, bytes, hrx, hcks⟩ := h.in_packet hstate
  have hnext : (s.rxCursor + 1).toNat = s.rxCursor.toNat + 1 := by
    have hlen := s.rxLen.isLt
    rw [BitVec.toNat_add]
    exact Nat.mod_eq_of_lt (by simp; omega)
  refine inv_of_receiver h ⟨rfl, rfl, rfl, rfl⟩ rfl
    ⟨Memory.wf_write h.rx_wf _ _, fun c hc => ?_, h.rx_cap, h.rx_len, fun _ => ?_, fun hposted => ?_⟩
  · rcases Memory.mem_write hc with rfl | hold
    · exact hcap
    · exact h.rx_inside c hold
  · refine ⟨by rw [hnext]; exact hin, bytes ++ [b], ?_, ?_⟩
    · rw [hnext]
      exact rxHolds_write hrx hcap rfl rfl
    · rw [checksum_append_singleton, ← hcks]
  · cases hready.symm.trans hposted

/-- COMPLETE of a readable payload, with the decoder re-armed, dispatches it or posts it (R30, R91). -/
theorem completeLink_inv {s t : State} {bytes : List Byte} (h : Inv s) (hstate : s.decState = .awaitHeader)
    (hrx : RxHolds s s.rxLen.toNat bytes) (hc : completeLink s = .ok t) : Inv t := by
  unfold completeLink at hc
  split at hc
  · exact inv_of_dispatchPacket h hc
  · next hmode =>
    cases hc
    refine inv_of_receiver h ⟨rfl, rfl, rfl, rfl⟩ rfl
      ⟨h.rx_wf, h.rx_inside, h.rx_cap, h.rx_len, fun hin => ?_, fun _ => ?_⟩
    · cases hstate.symm.trans hin
    · exact ⟨hmode, hstate, bytes, rxHolds_congr (s := s) rfl rfl hrx⟩

theorem checkMatchArm_inv {s t : State} {st : Status} (h : Inv s) (hready : s.pktReady = false)
    (hstate : s.decState = .readPayload) (hwhole : ¬ s.rxCursor.toNat < s.rxLen.toNat)
    (hc : checkMatchArm s = .ok (st, t)) : Inv t := by
  obtain ⟨bytes, hrx⟩ := rxHolds_of_whole h hstate hwhole
  have hrearmed : Inv { s with decState := .awaitHeader } := inv_rearm h hready s.cksAcc s.rxCursor
  exact completeLink_inv hrearmed rfl (rxHolds_congr (s := s) rfl rfl hrx) (checkMatchArm_eq_ok hc)

theorem deliverByte_inv {s t : State} {b : Byte} (h : Inv s) (hd : deliverByte s b = .next t) : Inv t := by
  obtain ⟨hready, st, u, harm, rfl⟩ := deliverByte_eq_next.mp hd
  refine inv_withResult ?_ _
  obtain ⟨_, rfl⟩ | ⟨_, rfl⟩ | ⟨hstate, hin, hp⟩ | ⟨hstate, hwhole, hc⟩ | ⟨_, _, rfl⟩ := decodeArm_cases harm
  · exact headerArm_inv h hready b
  · exact lengthArm_inv h hready b
  · exact payloadArm_inv h hready hstate hin hp
  · exact checkMatchArm_inv h hready hstate hwhole hc
  · exact inv_rearm h hready s.cksAcc s.rxCursor


/-! ### Link control -/

/-- Once the packet is dispatched nothing is posted (R137). -/
theorem inv_clearPosted {s : State} (h : Inv s) : Inv { s with pktReady := false } := by
  refine inv_of_receiver h ⟨rfl, rfl, rfl, rfl⟩ rfl
    ⟨h.rx_wf, h.rx_inside, h.rx_cap, h.rx_len, fun hstate => ?_, fun hposted => nomatch hposted⟩
  obtain ⟨hle, bytes, hrx, hcks⟩ := h.in_packet hstate
  exact ⟨hle, bytes, rxHolds_congr (s := s) rfl rfl hrx, hcks⟩

theorem execRunDispatch_inv {s t : State} (h : Inv s) (hr : execRunDispatch s = .next t) : Inv t := by
  obtain ⟨u, hd, rfl⟩ | rfl := execRunDispatch_eq_next hr
  · exact inv_withResult (inv_clearPosted (inv_of_dispatchPacket h hd)) _
  · exact inv_withResult h _

theorem execRegister_inv {hash : Byte} {handler : Option Handler} {context : Context} {s t : State} (h : Inv s)
    (hr : execRegister hash handler context s = .next t) : Inv t := by
  obtain ⟨hreceiver, hbuilder, htable⟩ := inv_iff.mp h
  obtain ⟨hd, table, hfill, rfl⟩ | rfl := execRegister_eq_next hr
  · refine inv_withResult (inv_iff.mpr ⟨?_, ?_, tableInv_of_fillFirst htable hfill⟩) _
    · exact receiverInv_congr hreceiver ⟨rfl, rfl, rfl, rfl, rfl, rfl, rfl, rfl⟩
    · exact builderInv_congr hbuilder ⟨rfl, rfl, rfl, rfl⟩
  · exact inv_withResult h _

theorem execAddData_inv {hash command : Byte} {payload : List Byte} {n : Byte} {s t : State} (h : Inv s)
    (ha : execAddData hash command payload n s = .next t) : Inv t := by
  obtain ⟨_, b, u, hadd, rfl⟩ := execAddData_eq_next ha
  have happends := addFrame_appends s s.cfg.typeData hash command payload (.inl rfl)
  rw [show addFrame s s.cfg.typeData hash command payload payload.length = (b, u) from hadd] at happends
  exact inv_withResult (inv_of_routed h happends.routed) _

/-- Settles O47: what RESET writes meets each clause in the ranges of R9 to R11. -/
theorem resetEstablishesTheInvariant : Obligations.ResetEstablishesTheInvariant := by
  intro s t h
  cases h
  have hcap := rxCapacity_le s.cfg
  obtain ⟨hlimit, _⟩ := txLimit_bounds s.cfg
  refine inv_iff.mpr ⟨?receiver, ?builder, ?table⟩
  case receiver =>
    refine ⟨List.Pairwise.nil, fun _ hc => (nomatch hc), ?_, Nat.zero_le _, fun hs => (nomatch hs), fun hp => (nomatch hp)⟩
    rw [BitVec.toNat_ofNat]
    exact Nat.mod_eq_of_lt (by omega)
  case builder =>
    refine ⟨List.pairwise_singleton _ _, fun c hc => ?_, ⟨[], ⟨Nat.le_refl _, ?_, rfl⟩, fun _ hf => nomatch hf⟩, .inl rfl⟩
    · obtain rfl := List.mem_singleton.mp hc
      exact Nat.succ_pos _
    · exact Nat.le_trans (Nat.le_add_right ..) hlimit
  case table => exact ⟨List.length_replicate, [], s.cfg.tableSlots, rfl⟩

/-- Settles O46: RESET answers the reset state from the reset state itself. -/
theorem resetMeetsTheInvariant : Obligations.ResetMeetsTheInvariant :=
  resetEstablishesTheInvariant State.reset State.reset rfl

/-! ### Every operation with an encoding, and so every step -/

theorem inv_of_presentSubframe {s t : State} {length type hash command : Byte} {rest : List Byte} {r : Result}
    (h : Inv s) (hp : Host.Outcome.next (withResult (presentSubframe s length type hash command rest) r) =
      (.next t : Host.Outcome State Fault Refusal)) : Inv t := by
  cases hp
  exact inv_withResult (inv_of_routed h (presentSubframe_routed ..)) r

/-- Settles O56, row by row: the rows of the internal group are vacuous. -/
theorem encodedOperationsKeepTheInvariant : Obligations.EncodedOperationsKeepTheInvariant := by
  intro i s t hgroup hinv h
  cases i with
  | reset => exact resetEstablishesTheInvariant s t h
  | decodeByte | pktHeader | pktLength | pktPayload | pktChecksum => exact deliverByte_inv hinv h
  | register => exact execRegister_inv hinv h
  | addData => exact execAddData_inv hinv h
  | addRequest type hash command =>
    cases h
    exact inv_withResult (inv_of_routed hinv (addFrame_appends s type hash command [] (.inr rfl)).routed) _
  | build =>
    obtain ⟨sent, u, hf, rfl⟩ := finishBool_eq_next.mp h
    exact inv_withResult (inv_of_finalizePacket hinv hf) _
  | decReset =>
    obtain ⟨hready, h⟩ := next_of_not_refused h
    cases h
    exact inv_withResult (inv_rearm hinv (by simpa using hready) 0 0) _
  | runDispatch => exact execRunDispatch_inv hinv h
  | unassignedOp code => cases h
  | sfData | sfAck | sfNack | sfRequest | sfEmpty | sfClassAlive => exact inv_of_presentSubframe hinv h
  | sfClassRegistered | sfClassUnregistered =>
    obtain ⟨_, h⟩ := next_of_guarded h
    exact inv_of_presentSubframe hinv h
  | _ => exact absurd rfl hgroup

/-- What a step runs is a port operation or a packet byte, never an internal row (R16, R17). -/
theorem OutsideRow.group_ne_internal {i : Instr} (h : OutsideRow i) : i.group ≠ .internal := by
  obtain h | rfl | ⟨b, rfl | rfl | rfl⟩ := h
  · rw [h]
    exact fun hne => nomatch hne
  all_goals exact fun hne => nomatch hne

/-- Settles O45: a step is idle, or runs an operation with an encoding on a state that meets the invariant still. -/
theorem stepKeepsTheInvariant : Obligations.StepKeepsTheInvariant := by
  intro s t hinv h
  cases hissued : s.pending with
  | nil =>
    cases (step_idle hissued).symm.trans h
    exact hinv
  | cons st rest =>
    rw [step_takes hissued] at h
    exact encodedOperationsKeepTheInvariant _ _ t (decodeStimulus_outsideRow _ st).group_ne_internal
      (inv_takePending hinv) h

end Sys2Proof.Proofs

/-! The decoder gives back what the encoder wrote (R60, R61, R62, R67, R71), the refusals of R176 (d), (e), (f), and the
statements on them: O44, O41, O43. -/

namespace Sys2Proof.Proofs

open Sys2Proof.Machine Sys2Proof.Safety

/-! ### The port rows (R67) -/

theorem decodePort_unassigned {code : BitVec 4} (h : 8 ≤ code.toNat) (bus : PortBus) :
    decodePort code bus = .unassignedOp code := by
  unfold decodePort
  split
  case h_9 => rfl
  all_goals omega

/-! ### The packet rows (R60): the decoder's position names the byte -/

theorem decodeWire_header {ctx : DecodeContext} (h : ctx.position = .header) :
    decodeWire ctx ctx.cfg.header = .pktHeader := by
  simp only [decodeWire, h, if_true]

theorem decodeWire_length {ctx : DecodeContext} (h : ctx.position = .length) (b : Byte) :
    decodeWire ctx b = .pktLength b := by
  simp only [decodeWire, h]

theorem decodeWire_payload {ctx : DecodeContext} (h : ctx.position = .payload) (b : Byte) :
    decodeWire ctx b = .pktPayload b := by
  simp only [decodeWire, h]

theorem decodeWire_checksum {ctx : DecodeContext} (h : ctx.position = .checksum) (b : Byte) :
    decodeWire ctx b = .pktChecksum b := by
  simp only [decodeWire, h]

/-! ### The sub-frame kinds (R61, R62) -/

/-- The distinctness of R12, in the order `decodeKind` tests the codes: each code differs from those tested before it. -/
theorem typeCodes_distinct (cfg : Config) :
    cfg.typeAck ≠ cfg.typeData ∧
    (cfg.typeNack ≠ cfg.typeData ∧ cfg.typeNack ≠ cfg.typeAck) ∧
    (cfg.typeRequest ≠ cfg.typeData ∧ cfg.typeRequest ≠ cfg.typeAck ∧ cfg.typeRequest ≠ cfg.typeNack) ∧
    (cfg.typeEmpty ≠ cfg.typeData ∧ cfg.typeEmpty ≠ cfg.typeAck ∧ cfg.typeEmpty ≠ cfg.typeNack ∧
      cfg.typeEmpty ≠ cfg.typeRequest) := by
  have hok := cfg.ok
  simp only [Params.inRange, Bool.and_eq_true, decide_eq_true_eq, List.pairwise_cons, List.forall_mem_cons] at hok
  obtain ⟨-, ⟨hda, hdn, hdr, hde, -⟩, ⟨han, har, hae, -⟩, ⟨hnr, hne, -⟩, ⟨hre, -⟩, -⟩ := hok
  exact ⟨hda.symm, ⟨hdn.symm, han.symm⟩, ⟨hdr.symm, har.symm, hnr.symm⟩, hde.symm, hae.symm, hne.symm, hre.symm⟩

section Kinds

variable (ctx : DecodeContext) (length hash command : Byte) (rest : List Byte)

theorem decodeKind_typeData :
    decodeKind ctx length ctx.cfg.typeData hash command rest = .sfData length hash command rest :=
  if_pos rfl

theorem decodeKind_typeAck :
    decodeKind ctx length ctx.cfg.typeAck hash command rest = .sfAck length hash command rest := by
  obtain ⟨hdata, -⟩ := typeCodes_distinct ctx.cfg
  rw [decodeKind, if_neg hdata, if_pos rfl]

theorem decodeKind_typeNack :
    decodeKind ctx length ctx.cfg.typeNack hash command rest = .sfNack length hash command rest := by
  obtain ⟨-, ⟨hdata, hack⟩, -⟩ := typeCodes_distinct ctx.cfg
  rw [decodeKind, if_neg hdata, if_neg hack, if_pos rfl]

theorem decodeKind_typeRequest :
    decodeKind ctx length ctx.cfg.typeRequest hash command rest = .sfRequest length hash command rest := by
  obtain ⟨-, -, ⟨hdata, hack, hnack⟩, -⟩ := typeCodes_distinct ctx.cfg
  rw [decodeKind, if_neg hdata, if_neg hack, if_neg hnack, if_pos rfl]

theorem decodeKind_typeEmpty :
    decodeKind ctx length ctx.cfg.typeEmpty hash command rest = .sfEmpty length hash command rest := by
  obtain ⟨-, -, -, hdata, hack, hnack, hrequest⟩ := typeCodes_distinct ctx.cfg
  rw [decodeKind, if_neg hdata, if_neg hack, if_neg hnack, if_neg hrequest, if_pos rfl]

end Kinds

/-! ### The dispatch classes (R71, R103) -/

section Classes

variable {ctx : DecodeContext} {hash : Byte} (length type command : Byte) (rest : List Byte)

theorem decodeClass_alive :
    decodeClass ctx length type hashAlive command rest = .sfClassAlive length type command rest :=
  if_pos rfl

theorem decodeClass_registered (hne : hash ≠ hashAlive) (hmem : hash ∈ ctx.registered) :
    decodeClass ctx length type hash command rest = .sfClassRegistered length type hash command rest := by
  rw [decodeClass, if_neg hne, if_pos hmem]

theorem decodeClass_unregistered (hne : hash ≠ hashAlive) (hmem : hash ∉ ctx.registered) :
    decodeClass ctx length type hash command rest = .sfClassUnregistered length type hash command rest := by
  rw [decodeClass, if_neg hne, if_neg hmem]

end Classes

/-! ### Decoding what was encoded -/

/-- Settles O44, row by row: a port row needs no more than its select code, a packet row its position, a kind the
distinctness of the type codes, a class the hash and the table; an internal row is selected nowhere. -/
theorem decodeEncodeAgree : Obligations.DecodeEncodeAgree := by
  intro ctx i hwf hsel
  cases i with
  | reset | decodeByte | register | addData | addRequest | build | decReset | runDispatch => exact ⟨_, rfl, rfl⟩
  | unassignedOp code => exact ⟨_, rfl, congrArg Except.ok (decodePort_unassigned (of_decide_eq_true hwf) {})⟩
  | pktHeader => exact ⟨_, rfl, congrArg Except.ok (decodeWire_header (eq_of_beq hsel))⟩
  | pktLength b => exact ⟨_, rfl, congrArg Except.ok (decodeWire_length (eq_of_beq hsel) b)⟩
  | pktPayload b => exact ⟨_, rfl, congrArg Except.ok (decodeWire_payload (eq_of_beq hsel) b)⟩
  | pktChecksum b => exact ⟨_, rfl, congrArg Except.ok (decodeWire_checksum (eq_of_beq hsel) b)⟩
  | sfData => exact ⟨_, rfl, congrArg Except.ok (decodeKind_typeData ..)⟩
  | sfAck => exact ⟨_, rfl, congrArg Except.ok (decodeKind_typeAck ..)⟩
  | sfNack => exact ⟨_, rfl, congrArg Except.ok (decodeKind_typeNack ..)⟩
  | sfRequest => exact ⟨_, rfl, congrArg Except.ok (decodeKind_typeRequest ..)⟩
  | sfEmpty => exact ⟨_, rfl, congrArg Except.ok (decodeKind_typeEmpty ..)⟩
  | sfClassAlive => exact ⟨_, rfl, congrArg Except.ok (decodeClass_alive ..)⟩
  | sfClassRegistered length type hash command rest =>
    have hne : hash ≠ hashAlive := bne_iff_ne.mp hwf
    have hmem : hash ∈ ctx.registered := of_decide_eq_true hsel
    exact ⟨_, rfl, congrArg Except.ok (decodeClass_registered length type command rest hne hmem)⟩
  | sfClassUnregistered length type hash command rest =>
    have hne : hash ≠ hashAlive := bne_iff_ne.mp hwf
    have hmem : hash ∉ ctx.registered := of_decide_eq_true hsel
    exact ⟨_, rfl, congrArg Except.ok (decodeClass_unregistered length type command rest hne hmem)⟩
  | _ => exact absurd hsel Bool.false_ne_true

/-- Settles O43, through the decoder's rules for a port row, a packet row, a kind and a class. -/
theorem writtenWordsDecode : Obligations.WrittenWordsDecode :=
  ⟨rfl, congrArg Except.ok (decodePort_unassigned (code := 0x8) (by decide) {}),
    congrArg Except.ok (decodeWire_header (ctx := tableContext) rfl),
    congrArg Except.ok (decodeKind_typeData tableContext ..), congrArg Except.ok (decodeClass_alive ..), rfl⟩

/-! ### The refusals of R176 -/

/-- R176 (e). -/
theorem execRegister_null (hash : Byte) (context : Context) (s : State) :
    execRegister hash none context s = .refused .nullHandler := rfl

/-- R176 (f). -/
theorem execAddData_of_length_ne {payload : List Byte} {n : Byte} (h : payload.length ≠ n.toNat) (hash command : Byte)
    (s : State) : execAddData hash command payload n s = .refused .lengthMismatch :=
  if_neg h

/-- Settles O41, one refusal of R176 each: an unassigned code has no meaning, the other two test their operands first. -/
theorem brokenObligationsAreRefused : Obligations.BrokenObligationsAreRefused := by
  intro s
  refine ⟨fun code => ?_, fun hash context => ?_, fun hash command payload n h => ?_⟩
  · show execUnassignedOp code s = .refused (.unassignedOpcode code)
    rfl
  · exact execRegister_null hash context s
  · exact execAddData_of_length_ne h hash command s

end Sys2Proof.Proofs

/-! The two forms of the checksum (R80, R81), the bytes of a packet received one after the other (R82, R83, R95), and the
statements on them: O1, O2, O3, O49, O50. -/

namespace Sys2Proof.Proofs

open Sys2Proof.Machine Sys2Proof.Safety

/-! ### The sum modulo 256 -/

theorem checksum_toNat (bytes : List Byte) : (checksum bytes).toNat = (bytes.map BitVec.toNat).sum % 256 :=
  BitVec.toNat_ofNat ..

theorem cksStep_toNat (acc b : Byte) : (cksStep acc b).toNat = (acc.toNat + b.toNat) % 256 :=
  BitVec.toNat_ofNat ..

/-- CHECKSUM does not depend on the order of the bytes (R80). -/
theorem checksum_perm {bytes swapped : List Byte} (h : swapped.Perm bytes) : checksum swapped = checksum bytes :=
  congrArg (BitVec.ofNat 8) (h.map BitVec.toNat).sum_nat

/-- The accumulator's addition is that of the byte, which wraps (R81). -/
theorem cksStep_eq_add (acc b : Byte) : cksStep acc b = acc + b :=
  BitVec.eq_of_toNat_eq ((cksStep_toNat acc b).trans (BitVec.toNat_add acc b).symm)

theorem checksum_nil : checksum [] = 0 := rfl

theorem checksum_append (x y : List Byte) : checksum (x ++ y) = checksum x + checksum y := by
  simp only [checksum, List.map_append, List.sum_append, BitVec.ofNat_add]

theorem checksum_cons (b : Byte) (bytes : List Byte) : checksum (b :: bytes) = b + checksum bytes := by
  simp only [checksum, List.map_cons, List.sum_cons, BitVec.ofNat_add, BitVec.ofNat_toNat, BitVec.setWidth_eq]

/-- Two sequences that differ in one byte have different checksums (R83). -/
theorem checksum_ne_of_byte_ne {b c : Byte} (before after : List Byte) (h : b ≠ c) :
    checksum (before ++ b :: after) ≠ checksum (before ++ c :: after) := by
  intro heq
  rw [checksum_append, checksum_append, checksum_cons, checksum_cons] at heq
  exact h (add_right_cancel (add_left_cancel heq))

/-- Flipping one bit changes a byte. -/
theorem xor_twoPow_ne (b : Byte) {bit : Nat} (h : bit < 8) : b ^^^ BitVec.twoPow 8 bit ≠ b := by
  intro heq
  have hbit := congrArg (·.getLsbD bit) heq
  simp [h] at hbit

/-! ### CHECKSUM and CKS_STEP -/

theorem exec_checksum (bytes : List Byte) (s : State) :
    exec (.checksum bytes) s = .next (withResult s (.byte (checksum bytes))) := rfl

theorem exec_cksStep (b : Byte) (s : State) :
    exec (.cksStep b) s = .next (withResult { s with cksAcc := cksStep s.cksAcc b } .nothing) := rfl

/-- Settles O1. -/
theorem checksumIsSumModulo256 : Obligations.ChecksumIsSumModulo256 := by
  intro s bytes
  refine ⟨checksum bytes, exec_checksum bytes s, checksum_toNat bytes, fun swapped hperm => ?_⟩
  rw [exec_checksum, exec_checksum, checksum_perm hperm]

/-- Settles O2. -/
theorem cksStepAddsModulo256 : Obligations.CksStepAddsModulo256 := fun s b =>
  ⟨cksStep s.cksAcc b, exec_cksStep b s, cksStep_toNat s.cksAcc b⟩

/-! ### Operations and received bytes, one after the other -/

theorem operations_cons {s t u : State} {i : Instr} {rest : List Instr} {rs : List Result} (hi : exec i s = .next t)
    (hrest : operations t rest = some (rs, u)) : operations s (i :: rest) = some (t.result :: rs, u) := by
  simp only [operations, hi, hrest, Option.map_some]

/-- A run that has a last state starts with an operation that has a next state, from which the rest runs. -/
theorem operations_cons_eq_some {s u : State} {i : Instr} {rest : List Instr} {rs : List Result}
    (h : operations s (i :: rest) = some (rs, u)) :
    ∃ t qs, exec i s = .next t ∧ operations t rest = some (qs, u) ∧ rs = t.result :: qs := by
  rw [operations] at h
  split at h
  · next t ht =>
    obtain ⟨⟨qs, v⟩, hrest, heq⟩ := Option.map_eq_some_iff.mp h
    cases heq
    exact ⟨t, qs, ht, hrest, rfl⟩
  · cases h

theorem operations_append {s t u : State} {first second : List Instr} {rs qs : List Result}
    (hfirst : operations s first = some (rs, t)) (hsecond : operations t second = some (qs, u)) :
    operations s (first ++ second) = some (rs ++ qs, u) := by
  induction first generalizing s rs with
  | nil =>
    cases hfirst
    exact hsecond
  | cons i rest ih =>
    obtain ⟨v, ps, hi, hrest, rfl⟩ := operations_cons_eq_some hfirst
    exact operations_cons hi (ih hrest)

theorem receive_cons {s t u : State} {b : Byte} {rest : List Byte} {rs : List Result} (hb : deliverByte s b = .next t)
    (hrest : receive t rest = some (rs, u)) : receive s (b :: rest) = some (t.result :: rs, u) :=
  operations_cons (i := .decodeByte b) hb hrest

theorem receive_append {s t u : State} {first second : List Byte} {rs qs : List Result}
    (hfirst : receive s first = some (rs, t)) (hsecond : receive t second = some (qs, u)) :
    receive s (first ++ second) = some (rs ++ qs, u) := by
  rw [receive, List.map_append]
  exact operations_append hfirst hsecond

theorem receive_singleton {s t : State} {b : Byte} (hb : deliverByte s b = .next t) :
    receive s [b] = some ([t.result], t) :=
  receive_cons hb rfl

/-! ### The incremental checksum -/

/-- CKS_STEP over a byte sequence adds its checksum into the accumulator and changes nothing else but the result. -/
theorem operations_cksStep (s : State) (bytes : List Byte) :
    ∃ rs r, operations s (bytes.map .cksStep) = some (rs, { s with cksAcc := s.cksAcc + checksum bytes, result := r }) := by
  induction bytes generalizing s with
  | nil => exact ⟨[], s.result, by rw [checksum_nil, add_zero]; rfl⟩
  | cons b rest ih =>
    obtain ⟨rs, r, hrest⟩ := ih (withResult { s with cksAcc := cksStep s.cksAcc b } .nothing)
    refine ⟨.nothing :: rs, r, (operations_cons (exec_cksStep b s) hrest).trans ?_⟩
    rw [checksum_cons, ← add_assoc, ← cksStep_eq_add]
    rfl

/-- Settles O3: from 0 what is added is what CHECKSUM returns. -/
theorem incrementalChecksumAgrees : Obligations.IncrementalChecksumAgrees := by
  intro s bytes hzero
  obtain ⟨rs, r, hrun⟩ := operations_cksStep s bytes
  rw [hzero, zero_add] at hrun
  exact ⟨rs, _, hrun, exec_checksum bytes s, rfl⟩

/-! ### The decoder's rule for each byte of a packet -/

/-- The state with the sentinel accepted (R86). -/
def acceptHeader (s : State) : State := { s with decState := .awaitLength, result := .status .pending }

theorem deliverByte_header {s : State} (hquiet : Quiet s) :
    deliverByte s s.cfg.header = .next (acceptHeader s) := by
  obtain ⟨hstate, hready⟩ := hquiet
  rw [deliverByte_of_not_ready hready]
  simp only [decodeArm, hstate, headerArm, if_true, finishStatus, withResult, acceptHeader]

/-- The state with a length accepted: no payload byte is stored or summed yet (R87). -/
def acceptLength (s : State) (b : Byte) : State :=
  { s with rxLen := b, cksAcc := 0, rxCursor := 0, decState := .readPayload, result := .status .pending }

theorem deliverByte_length {s : State} {b : Byte} (hstate : s.decState = .awaitLength) (hready : s.pktReady = false)
    (hfit : b.toNat ≤ s.rxCap.toNat) :
    deliverByte s b = .next (acceptLength s b) := by
  rw [deliverByte_of_not_ready hready]
  simp only [decodeArm, hstate, lengthArm, if_neg (Nat.not_lt.mpr hfit), finishStatus, withResult, acceptLength]

/-- The state with payload bytes stored at the cursor, added into the accumulator and counted, each answered by Pending. -/
def storePayload (s : State) (bytes : List Byte) : State :=
  { s with rxBuf := s.rxBuf.writeAll s.rxCursor.toNat bytes, cksAcc := s.cksAcc + checksum bytes,
           rxCursor := s.rxCursor + BitVec.ofNat 8 bytes.length,
           result := if bytes = [] then s.result else .status .pending }

theorem storePayload_nil (s : State) : storePayload s [] = s := by
  simp [storePayload, checksum_nil, Memory.writeAll]

theorem storePayload_rxCursor {s : State} {bytes : List Byte} (h : s.rxCursor.toNat + bytes.length ≤ s.rxLen.toNat) :
    (storePayload s bytes).rxCursor.toNat = s.rxCursor.toNat + bytes.length := by
  have hlen := s.rxLen.isLt
  simp only [storePayload, BitVec.toNat_add, BitVec.toNat_ofNat, Nat.add_mod_mod]
  exact Nat.mod_eq_of_lt (by omega)

/-- Storing the first payload byte and then the others is storing them all. -/
theorem storePayload_cons {s : State} {b : Byte} {rest : List Byte} (hin : s.rxCursor.toNat < s.rxLen.toNat) :
    storePayload (storePayload s [b]) rest = storePayload s (b :: rest) := by
  have hcursor : (storePayload s [b]).rxCursor.toNat = s.rxCursor.toNat + 1 :=
    storePayload_rxCursor (bytes := [b]) hin
  have hcount : BitVec.ofNat 8 (b :: rest).length = 1 + BitVec.ofNat 8 rest.length := by
    rw [List.length_cons, BitVec.ofNat_add, add_comm]
    rfl
  rw [storePayload, hcursor]
  simp only [storePayload, hcount, checksum_cons, checksum_nil, ← add_assoc]
  simp [Memory.writeAll]

/-- In ReadPayload, with declared bytes still to come, the byte is one of them (R85, R88). -/
theorem decodeArm_of_inside {s : State} (hstate : s.decState = .readPayload) (hin : s.rxCursor.toNat < s.rxLen.toNat)
    (b : Byte) : decodeArm s b = payloadArm s b := by
  simp only [decodeArm, hstate, if_pos hin]

/-- A payload byte is stored, summed and counted (R88). -/
theorem deliverByte_payload {s : State} {b : Byte} (hstate : s.decState = .readPayload) (hready : s.pktReady = false)
    (hcap : s.rxLen.toNat ≤ s.cfg.rxCapacity) (hin : s.rxCursor.toNat < s.rxLen.toNat) :
    deliverByte s b = .next (storePayload s [b]) := by
  rw [deliverByte_of_not_ready hready, decodeArm_of_inside hstate hin]
  simp only [payloadArm, writeRx, if_pos (Nat.lt_of_lt_of_le hin hcap), cksStep_eq_add]
  simp [finishStatus, withResult, storePayload, Memory.writeAll, checksum_cons, checksum_nil]

/-- Payload bytes within the declared length are each answered by Pending, stored, summed and counted (R88). -/
theorem receive_payload {s : State} {bytes : List Byte} (hstate : s.decState = .readPayload)
    (hready : s.pktReady = false) (hcap : s.rxLen.toNat ≤ s.cfg.rxCapacity)
    (hin : s.rxCursor.toNat + bytes.length ≤ s.rxLen.toNat) :
    receive s bytes = some (List.replicate bytes.length (.status .pending), storePayload s bytes) := by
  induction bytes generalizing s with
  | nil =>
    rw [storePayload_nil]
    rfl
  | cons b rest ih =>
    rw [List.length_cons] at hin
    have hnext : s.rxCursor.toNat < s.rxLen.toNat := by omega
    have hcursor : (storePayload s [b]).rxCursor.toNat = s.rxCursor.toNat + 1 :=
      storePayload_rxCursor (bytes := [b]) hnext
    have hleft : (storePayload s [b]).rxCursor.toNat + rest.length ≤ s.rxLen.toNat := by omega
    have hrest := ih (s := storePayload s [b]) hstate hready hcap hleft
    rw [storePayload_cons hnext] at hrest
    exact receive_cons (deliverByte_payload hstate hready hcap hnext) hrest

/-- After the declared bytes the next one is the checksum (R89, R90). -/
theorem deliverByte_check {s u : State} {b : Byte} {status : Status} (hstate : s.decState = .readPayload)
    (hready : s.pktReady = false) (hwhole : ¬ s.rxCursor.toNat < s.rxLen.toNat)
    (hcheck : checkArm s b = .ok (status, u)) : deliverByte s b = .next (withResult u (.status status)) := by
  rw [deliverByte_of_not_ready hready, decodeArm_of_whole hstate hwhole, hcheck]
  rfl

/-- A wrong checksum only re-arms the decoder (R90). -/
theorem checkArm_of_ne {s : State} {b : Byte} (h : b ≠ s.cksAcc) :
    checkArm s b = .ok (.errorChecksum, { s with decState := .awaitHeader }) :=
  if_neg h

/-! ### A packet up to its checksum -/

/-- The link `r` once it has received the header, the length and the whole of a payload. -/
def awaitingChecksum (r : State) (payload : List Byte) : State :=
  { r with decState := .readPayload, cksAcc := checksum payload, rxCursor := BitVec.ofNat 8 payload.length,
           rxLen := BitVec.ofNat 8 payload.length, rxBuf := r.rxBuf.writeAll 0 payload, result := .status .pending }

theorem receive_up_to_checksum {r : State} {payload : List Byte} (hinv : Inv r) (hquiet : Quiet r)
    (hfit : payload.length ≤ r.cfg.rxCapacity) :
    receive r ([r.cfg.header, BitVec.ofNat 8 payload.length] ++ payload) =
      some (List.replicate (payload.length + 2) (.status .pending), awaitingChecksum r payload) := by
  have hlen : (BitVec.ofNat 8 payload.length).toNat = payload.length := toNat_ofNat_length hfit
  have hlength : deliverByte (acceptHeader r) (BitVec.ofNat 8 payload.length) =
      .next (acceptLength (acceptHeader r) (BitVec.ofNat 8 payload.length)) :=
    deliverByte_length rfl hquiet.2 (by simpa [acceptHeader, hlen, hinv.rx_cap] using hfit)
  have hpayload := receive_payload (s := acceptLength (acceptHeader r) (BitVec.ofNat 8 payload.length)) (bytes := payload)
    rfl hquiet.2 (by simpa [acceptLength, acceptHeader, hlen] using hfit) (by simp [acceptLength, hlen])
  have hlast : storePayload (acceptLength (acceptHeader r) (BitVec.ofNat 8 payload.length)) payload =
      awaitingChecksum r payload := by
    simp [storePayload, acceptLength, acceptHeader, awaitingChecksum]
  rw [hlast] at hpayload
  exact receive_cons (deliverByte_header hquiet) (receive_cons hlength hpayload)

/-- A packet with any checksum byte: Pending up to it, then what the check answers (R95). -/
theorem receive_packet {r u : State} {payload : List Byte} {sum : Byte} {status : Status} (hinv : Inv r)
    (hquiet : Quiet r) (hfit : payload.length ≤ r.cfg.rxCapacity)
    (hcheck : checkArm (awaitingChecksum r payload) sum = .ok (status, u)) :
    receive r ([r.cfg.header, BitVec.ofNat 8 payload.length] ++ payload ++ [sum]) =
      some (List.replicate (payload.length + 2) (.status .pending) ++ [.status status], withResult u (.status status)) :=
  receive_append (receive_up_to_checksum hinv hquiet hfit)
    (receive_singleton (deliverByte_check (s := awaitingChecksum r payload) rfl hquiet.2 (Nat.lt_irrefl _) hcheck))

/-! ### The round trip -/

/-- BUILD with bytes accumulated emits their packet (R124, R126). -/
theorem exec_build_emits {s : State} {pend : List Byte} (hlt : hdrSize < s.txCursor) (hp : TxHolds s pend) :
    ∃ t, exec .build s = .next t ∧ t.trace = s.trace ++ [.txSend (packetBytes s.cfg.header pend)] := by
  obtain ⟨_, hle, hr⟩ := hp
  have hbuild : exec .build s = finishBool (finalizePacket s) := rfl
  rw [hbuild, finalizePacket_sends hlt hle hr]
  exact ⟨_, rfl, rfl⟩

/-- The completion, dispatch or post, leaves the decoder's registers and `rx_buf` as they are (R50, R91). -/
theorem completeLink_decoder {s t : State} (h : completeLink s = .ok t) :
    t.decState = s.decState ∧ t.rxLen = s.rxLen ∧ t.rxBuf = s.rxBuf ∧ t.cfg = s.cfg := by
  unfold completeLink at h
  split at h
  · have hb := builderOnly_of_dispatchPacket h
    exact ⟨hb.decState, hb.rxLen, hb.rxBuf, hb.cfg⟩
  · cases h
    exact ⟨rfl, rfl, rfl, rfl⟩

/-- The right checksum of a received payload gives Done, with the payload in the re-armed decoder's buffer (R89). -/
theorem checkArm_checksum {r : State} {payload : List Byte} (hinv : Inv r) (hfit : payload.length ≤ r.cfg.rxCapacity) :
    ∃ u, checkArm (awaitingChecksum r payload) (checksum payload) = .ok (.done, u) ∧
      u.rxLen.toNat = payload.length ∧ RxHolds u payload.length payload ∧ u.decState = .awaitHeader := by
  have hlen : (BitVec.ofNat 8 payload.length).toNat = payload.length := toNat_ofNat_length hfit
  have hrx : RxHolds { awaitingChecksum r payload with decState := .awaitHeader } payload.length payload :=
    rxHolds_writeAll hfit rfl rfl
  obtain ⟨frames, htx, _⟩ := hinv.accumulated
  obtain ⟨u, hu⟩ : ∃ u, completeLink { awaitingChecksum r payload with decState := .awaitHeader } = .ok u :=
    completeLink_completes (bytes := payload) (by simpa only [awaitingChecksum, hlen] using hrx)
      (txHolds_congr (s := r) rfl rfl rfl htx)
  obtain ⟨hstate, hrxLen, hbuf, hcfg⟩ := completeLink_decoder hu
  exact ⟨u, checkArm_of_complete hu, by rw [hrxLen]; exact hlen, rxHolds_congr hcfg hbuf hrx, hstate⟩

/-- Settles O49: the packet BUILD emits ends in the checksum of its payload, which is what the receiver has summed. -/
theorem packetRoundTrip : Obligations.PacketRoundTrip := by
  intro s r pend hlt hp hinv hquiet hheader hfit
  obtain ⟨t, hbuild, htrace⟩ := exec_build_emits hlt hp
  obtain ⟨u, hcheck, hlen, hrx, hstate⟩ := checkArm_checksum hinv hfit
  rw [← hheader] at htrace
  exact ⟨t, _, _, hbuild, htrace, receive_packet hinv hquiet hfit hcheck, hlen, rxHolds_congr (s := u) rfl rfl hrx, hstate⟩

/-! ### A flipped bit -/

/-- Settles O50: the flipped byte changes the sum, so the check fails and only re-arms the decoder. -/
theorem flippedPayloadBitIsDetected : Obligations.FlippedPayloadBitIsDetected := by
  intro r before after b bit hinv hquiet hbit hfit
  have hlen : (before ++ (b ^^^ BitVec.twoPow 8 bit) :: after).length = (before ++ b :: after).length := by simp
  have hsum : checksum (before ++ b :: after) ≠ checksum (before ++ (b ^^^ BitVec.twoPow 8 bit) :: after) :=
    checksum_ne_of_byte_ne before after (xor_twoPow_ne b hbit).symm
  have hrun := receive_packet hinv hquiet (hlen ▸ hfit) (checkArm_of_ne hsum)
  rw [hlen] at hrun
  exact ⟨_, hrun, rfl, rfl, ⟨rfl, rfl, fun _ => rfl⟩, rfl, rfl⟩

end Sys2Proof.Proofs

/-! The byte decoder (R85 to R91): each of its rows as the decoder's answer to one byte, the completion, runs of received bytes,
and the statements on them: O8, O12, O13, O4, O5, O6, O7, O9, O57. -/

namespace Sys2Proof.Proofs

open Sys2Proof.Machine Sys2Proof.Safety

/-! ### An arm run alone, in the state that selects it, is the decoder's answer to its byte (R85) -/

theorem exec_decHeader {s : State} (hstate : s.decState = .awaitHeader) (b : Byte) :
    exec (.decHeader b) s = finishStatus (decodeArm s b) := by
  change execDecHeader b s = _
  simp only [execDecHeader, decodeArm, hstate, if_true]

theorem exec_decLength {s : State} (hstate : s.decState = .awaitLength) (b : Byte) :
    exec (.decLength b) s = finishStatus (decodeArm s b) := by
  change execDecLength b s = _
  simp only [execDecLength, decodeArm, hstate, if_true]

theorem exec_decPayload {s : State} (hstate : s.decState = .readPayload) (hin : s.rxCursor.toNat < s.rxLen.toNat)
    (b : Byte) : exec (.decPayload b) s = finishStatus (decodeArm s b) := by
  rw [decodeArm_of_inside hstate hin]
  exact if_pos ⟨hstate, hin⟩

/-- With the cursor at the declared length no payload byte is to come, so the next byte is checked (R89, R90). -/
theorem decodeArm_of_full {s : State} (hstate : s.decState = .readPayload) (hfull : s.rxCursor = s.rxLen) (b : Byte) :
    decodeArm s b = checkArm s b :=
  decodeArm_of_whole hstate (hfull ▸ Nat.lt_irrefl _) b

theorem exec_decCheckMatch {s : State} (hstate : s.decState = .readPayload) (hfull : s.rxCursor = s.rxLen) :
    exec (.decCheckMatch s.cksAcc) s = finishStatus (decodeArm s s.cksAcc) := by
  rw [decodeArm_of_full hstate hfull, checkArm, if_pos rfl]
  exact if_pos ⟨hstate, hfull, rfl⟩

theorem exec_decCheckMismatch {s : State} {b : Byte} (hstate : s.decState = .readPayload) (hfull : s.rxCursor = s.rxLen)
    (hne : b ≠ s.cksAcc) : exec (.decCheckMismatch b) s = finishStatus (decodeArm s b) := by
  rw [decodeArm_of_full hstate hfull, checkArm, if_neg hne]
  exact if_pos ⟨hstate, hfull, hne⟩

/-- With no packet posted an arm run alone is DECODE_BYTE of its byte (R85). -/
theorem exec_arm_eq_deliverByte {s : State} {i : Instr} {b : Byte} (hready : s.pktReady = false)
    (harm : exec i s = finishStatus (decodeArm s b)) : exec i s = deliverByte s b :=
  harm.trans (deliverByte_of_not_ready hready b).symm

/-! ### COMPLETE and the matching checksum -/

theorem exec_complete_of_ok {s u : State} (hc : completeLink s = .ok u) :
    exec .complete s = .next (withResult u .nothing) := by
  change execComplete s = _
  simp only [execComplete, hc]

/-- The completion, dispatch or post, changes no register of the decoder and no byte of `rx_buf` (R50, R91). -/
theorem completeLink_sameDecoder {s u : State} (hc : completeLink s = .ok u) : SameDecoder s u := by
  unfold completeLink at hc
  split at hc
  · have hb := builderOnly_of_dispatchPacket hc
    exact ⟨hb.decState, hb.cksAcc, hb.rxCursor, hb.rxLen, hb.rxCap, fun a => congrArg (Memory.read · a) hb.rxBuf⟩
  · cases hc
    exact ⟨rfl, rfl, rfl, rfl, rfl, fun _ => rfl⟩

/-- The matching checksum is answered by Done, once COMPLETE of the re-armed decoder has answered (R89). -/
theorem finishStatus_decodeArm_match {s u : State} (hstate : s.decState = .readPayload) (hfull : s.rxCursor = s.rxLen)
    (hc : completeLink { s with decState := .awaitHeader } = .ok u) :
    finishStatus (decodeArm s s.cksAcc) = .next (withResult u (.status .done)) := by
  rw [decodeArm_of_full hstate hfull, checkArm_of_complete hc]
  rfl

/-- Under the invariant COMPLETE of a full payload, the decoder re-armed, answers a next state (R38, R171). -/
theorem completeLink_rearmed_completes {s : State} (hinv : Inv s) (hstate : s.decState = .readPayload)
    (hfull : s.rxCursor = s.rxLen) : ∃ u, completeLink { s with decState := .awaitHeader } = .ok u := by
  obtain ⟨bytes, hrx⟩ := rxHolds_of_whole hinv hstate (hfull ▸ Nat.lt_irrefl _)
  obtain ⟨frames, htx, _⟩ := hinv.accumulated
  exact completeLink_completes (rxHolds_congr (s := s) rfl rfl hrx) (txHolds_congr (s := s) rfl rfl rfl htx)

/-- Settles O8: each of the three rows is the decoder's answer to the byte, which is COMPLETE's with status Done. -/
theorem rightChecksumRunsCompletion : Obligations.RightChecksumRunsCompletion := by
  intro s b i hinv hstate hfull hsum hi
  subst hsum
  obtain ⟨u, hc⟩ := completeLink_rearmed_completes hinv hstate hfull
  have hrow : exec i s = finishStatus (decodeArm s s.cksAcc) := by
    obtain rfl | ⟨hready, rfl | rfl⟩ := hi
    · exact exec_decCheckMatch hstate hfull
    · exact deliverByte_of_not_ready hready s.cksAcc
    · exact deliverByte_of_not_ready hready s.cksAcc
  have hdone := finishStatus_decodeArm_match hstate hfull hc
  have hsame : SameDecoder { s with decState := .awaitHeader } u := completeLink_sameDecoder hc
  exact ⟨withResult u .nothing, exec_complete_of_ok hc, hrow.trans hdone, hsame⟩

/-- A held payload lies in the buffer, so its length is in DISPATCH's range (R26, R103). -/
theorem le_rxCapacity_of_rxHolds {s : State} {n : Nat} {bytes : List Byte} (h : RxHolds s n bytes) :
    n ≤ s.cfg.rxCapacity := by
  obtain ⟨_, hget⟩ := readRxRange_eq_ok.mp h
  cases n with
  | zero => exact Nat.zero_le _
  | succ n =>
    have hlast := (hget n (Nat.lt_succ_self n)).1
    omega

/-- Settles O9: the two modes are the two branches of the completion. -/
theorem completionDispatchesOrPosts : Obligations.CompletionDispatchesOrPosts := by
  intro s
  refine ⟨fun hdeferred => ?_, fun hinline payload pend hrx htx => ?_⟩
  · have hc : completeLink s = .ok { s with pktReady := true } := by simp only [completeLink, hdeferred]
    exact exec_complete_of_ok hc
  · obtain ⟨u, hd⟩ := dispatchPacket_completes hrx htx
    exact ⟨withResult u .nothing, exec_complete_of_ok ((completeLink_of_inline hinline).trans hd),
      exec_dispatch_of_ok (le_rxCapacity_of_rxHolds hrx) hd⟩

/-! ### The header byte -/

/-- A byte that is not the sentinel is answered by ErrorHeader, and nothing else changes (R86). -/
theorem deliverByte_garbage {s : State} {b : Byte} (hquiet : Quiet s) (hne : b ≠ s.cfg.header) :
    deliverByte s b = .next (withResult s (.status .errorHeader)) := by
  obtain ⟨hstate, hready⟩ := hquiet
  rw [deliverByte_of_not_ready hready]
  simp only [decodeArm, hstate, headerArm, if_neg hne, finishStatus]

/-- Settles O12, by induction on the bytes: after each one the decoder is as it was. -/
theorem garbageBeforeHeaderIsDropped : Obligations.GarbageBeforeHeaderIsDropped := by
  intro s garbage hquiet hnone
  induction garbage generalizing s with
  | nil => exact ⟨s.result, rfl⟩
  | cons b rest ih =>
    obtain ⟨hb, hrest⟩ := List.ne_and_not_mem_of_not_mem_cons hnone
    obtain ⟨r, hr⟩ := ih (withResult s (.status .errorHeader)) hquiet hrest
    exact ⟨r, receive_cons (deliverByte_garbage hquiet hb.symm) hr⟩

/-- Settles O4: each row is a DECODE_BYTE, of the sentinel or of another byte. -/
theorem headerByteIsAcceptedOrDropped : Obligations.HeaderByteIsAcceptedOrDropped := by
  intro s b i hstate hready hi
  have hrow : exec i s = deliverByte s b := by
    obtain rfl | rfl | ⟨rfl, rfl⟩ := hi
    · exact exec_arm_eq_deliverByte hready (exec_decHeader hstate b)
    · rfl
    · rfl
  rw [hrow]
  split
  · next hheader => exact hheader ▸ deliverByte_header ⟨hstate, hready⟩
  · next hne => exact deliverByte_garbage ⟨hstate, hready⟩ hne

/-! ### The length byte -/

/-- A length above `rx_cap` is answered by ErrorLength and re-arms the decoder (R87). -/
theorem deliverByte_length_above {s : State} {b : Byte} (hstate : s.decState = .awaitLength)
    (hready : s.pktReady = false) (habove : s.rxCap.toNat < b.toNat) :
    deliverByte s b = .next (withResult { s with decState := .awaitHeader } (.status .errorLength)) := by
  rw [deliverByte_of_not_ready hready]
  simp only [decodeArm, hstate, lengthArm, if_pos habove, finishStatus]

/-- Settles O5: each row is a DECODE_BYTE, of a length above `rx_cap` or within it. -/
theorem lengthByteIsCheckedAndStored : Obligations.LengthByteIsCheckedAndStored := by
  intro s b i hstate hready hi
  have hrow : exec i s = deliverByte s b := by
    obtain rfl | rfl | rfl := hi
    · exact exec_arm_eq_deliverByte hready (exec_decLength hstate b)
    · rfl
    · rfl
  rw [hrow]
  split
  · next habove => exact deliverByte_length_above hstate hready habove
  · next hfit => exact deliverByte_length hstate hready (Nat.le_of_not_lt hfit)

/-! ### Payload bytes -/

theorem storePayload_cksAcc (s : State) (bytes : List Byte) :
    (storePayload s bytes).cksAcc.toNat = (s.cksAcc.toNat + (bytes.map BitVec.toNat).sum) % 256 := by
  simp only [storePayload, BitVec.toNat_add, checksum_toNat, Nat.add_mod_mod]

theorem storePayload_rxBuf_inside (s : State) {bytes : List Byte} {k : Nat} (hk : k < bytes.length) :
    (storePayload s bytes).rxBuf.read (s.rxCursor.toNat + k) = bytes[k]? := by
  rw [storePayload, Memory.read_writeAll, if_pos (by omega), Nat.add_sub_cancel_left]

theorem storePayload_rxBuf_outside (s : State) {bytes : List Byte} {a : Nat}
    (ha : a < s.rxCursor.toNat ∨ s.rxCursor.toNat + bytes.length ≤ a) :
    (storePayload s bytes).rxBuf.read a = s.rxBuf.read a := by
  rw [storePayload, Memory.read_writeAll, if_neg (by omega)]

/-- Settles O13: the bytes are all answered by Pending and stored as one sequence. -/
theorem payloadBytesAccumulate : Obligations.PayloadBytesAccumulate := by
  intro s payload hstate hready hcap hin
  exact ⟨storePayload s payload, receive_payload hstate hready hcap hin, storePayload_rxCursor hin,
    storePayload_cksAcc s payload, fun _ hk => storePayload_rxBuf_inside s hk,
    fun _ ha => storePayload_rxBuf_outside s ha, rfl⟩

/-- Settles O6: each row is a DECODE_BYTE, which stores the sequence of its one byte. -/
theorem payloadByteIsStoredAndSummed : Obligations.PayloadByteIsStoredAndSummed := by
  intro s b i hstate hin hcap hready hi
  have hrow : exec i s = deliverByte s b := by
    obtain rfl | rfl | rfl := hi
    · exact exec_arm_eq_deliverByte hready (exec_decPayload hstate hin b)
    · rfl
    · rfl
  have hother : ∀ a, a ≠ s.rxCursor.toNat → (storePayload s [b]).rxBuf.read a = s.rxBuf.read a := fun a ha =>
    storePayload_rxBuf_outside s (by rw [List.length_singleton]; omega)
  exact ⟨storePayload s [b], hrow.trans (deliverByte_payload hstate hready hcap hin),
    storePayload_rxBuf_inside s (bytes := [b]) Nat.zero_lt_one, hother, storePayload_cksAcc s [b],
    storePayload_rxCursor (bytes := [b]) hin, rfl⟩

/-! ### The mismatching checksum -/

/-- Settles O7: each row is a DECODE_BYTE of a wrong checksum, which only re-arms the decoder. -/
theorem wrongChecksumDeliversNothing : Obligations.WrongChecksumDeliversNothing := by
  intro s b i hstate hfull hne hready hi
  have hrow : exec i s = deliverByte s b := by
    obtain rfl | rfl | rfl := hi
    · exact exec_arm_eq_deliverByte hready (exec_decCheckMismatch hstate hfull hne)
    · rfl
    · rfl
  exact hrow.trans (deliverByte_check hstate hready (hfull ▸ Nat.lt_irrefl _) (checkArm_of_ne hne))

/-! ### The arms alone do not look at `pkt_ready` (log entry 19) -/

/-- The same state with a packet posted. -/
def withPosted (s : State) : State := { s with pktReady := true }

theorem withPosted_cleared {s : State} (hready : s.pktReady = true) : withPosted { s with pktReady := false } = s := by
  rw [withPosted, ← hready]

/-- The arm answers with a packet posted what it answers with none, but for `pkt_ready`. -/
def IgnoresPosted (arm : State → Except Fault (Status × State)) : Prop :=
  ∀ s, arm (withPosted s) = (arm s).map (Prod.map id withPosted)

theorem headerArm_ignoresPosted (b : Byte) : IgnoresPosted fun s => .ok (headerArm s b) := by
  refine fun s => congrArg Except.ok ?_
  unfold headerArm
  rw [apply_ite (Prod.map id withPosted)]
  rfl

theorem lengthArm_ignoresPosted (b : Byte) : IgnoresPosted fun s => .ok (lengthArm s b) := by
  refine fun s => congrArg Except.ok ?_
  unfold lengthArm
  rw [apply_ite (Prod.map id withPosted)]
  rfl

theorem writeRx_withPosted (s : State) (i : Nat) (v : Byte) :
    writeRx (withPosted s) i v = (writeRx s i v).map withPosted := by
  unfold writeRx
  rw [apply_ite (Except.map withPosted)]
  rfl

theorem payloadArm_ignoresPosted (b : Byte) : IgnoresPosted (payloadArm · b) := by
  intro s
  have hwrite : writeRx (withPosted s) (withPosted s).rxCursor.toNat b = (writeRx s s.rxCursor.toNat b).map withPosted :=
    writeRx_withPosted s s.rxCursor.toNat b
  simp only [payloadArm, hwrite]
  cases writeRx s s.rxCursor.toNat b <;> rfl

theorem checkMismatchArm_ignoresPosted : IgnoresPosted fun s => .ok (checkMismatchArm s) := fun _ => rfl

theorem finishStatus_posted {r : Except Fault (Status × State)} {t : State} (h : finishStatus r = .next t) :
    finishStatus (r.map (Prod.map id withPosted)) = .next (withPosted t) := by
  obtain ⟨st, u, rfl, rfl⟩ := finishStatus_eq_next.mp h
  rfl

/-- A row guarded by the condition that selects it answers with a packet posted what it answers with none. -/
theorem guarded_posted {p : Prop} [Decidable p] {arm : State → Except Fault (Status × State)} {r : Refusal} {s t : State}
    (harm : IgnoresPosted arm) (h : (if p then finishStatus (arm s) else .refused r) = .next t) :
    (if p then finishStatus (arm (withPosted s)) else .refused r) = .next (withPosted t) := by
  obtain ⟨hp, h⟩ := next_of_guarded h
  rw [if_pos hp, harm s]
  exact finishStatus_posted h

theorem exec_arm_posted {s t : State} {b : Byte} {i : Instr}
    (hi : i ∈ [Instr.decHeader b, .decLength b, .decPayload b, .decCheckMismatch b]) (h : exec i s = .next t) :
    exec i (withPosted s) = .next (withPosted t) := by
  simp only [List.mem_cons, List.not_mem_nil, or_false] at hi
  obtain rfl | rfl | rfl | rfl := hi
  · exact guarded_posted (headerArm_ignoresPosted b) h
  · exact guarded_posted (lengthArm_ignoresPosted b) h
  · exact guarded_posted (payloadArm_ignoresPosted b) h
  · exact guarded_posted checkMismatchArm_ignoresPosted h

/-- Settles O57: the four arms that run no completion, and the matching checksum, which answers what COMPLETE does. -/
theorem decoderArmsAloneIgnoreThePostedPacket : Obligations.DecoderArmsAloneIgnoreThePostedPacket := by
  intro s t b hready
  refine ⟨fun i hi h => ?_, fun hstate hfull hsum hcomplete => ?_⟩
  · have hposted := exec_arm_posted hi h
    rwa [withPosted_cleared hready] at hposted
  · subst hsum
    obtain ⟨u, hc, rfl⟩ := execComplete_eq_next hcomplete
    have hdone := finishStatus_decodeArm_match hstate hfull hc
    exact (exec_decCheckMatch hstate hfull).trans hdone

end Sys2Proof.Proofs

/-! The registration table (R31, R32, R100 to R102) and the statements on it: O14, O15, O16, O17. -/

namespace Sys2Proof.Proofs

open Sys2Proof.Machine Sys2Proof.Safety

/-! ### LOOKUP -/

/-- LOOKUP's scan from slot `k` on names the first match, counted from `k` (R102). -/
theorem findFrom_index (hash : Byte) (k : Nat) (table : List Slot) :
    (findFrom hash k table).map Prod.fst = (firstMatch table hash).map (· + k) := by
  induction table generalizing k with
  | nil => rfl
  | cons slot rest ih =>
    have hshift : ((firstMatch rest hash).map (· + 1)).map (· + k) = (firstMatch rest hash).map (· + (k + 1)) := by
      rw [Option.map_map]
      exact congrArg (Option.map · _) (funext fun j => by simp only [Function.comp_apply]; omega)
    cases slot with
    | none => simpa [findFrom, firstMatch, List.findIdx?_cons] using (ih (k + 1)).trans hshift.symm
    | some e =>
      by_cases he : e.hash = hash
      · simp [findFrom, firstMatch, List.findIdx?_cons, he]
      · simpa [findFrom, firstMatch, List.findIdx?_cons, he] using (ih (k + 1)).trans hshift.symm

theorem findSlot_index (s : State) (hash : Byte) : (findSlot s hash).map Prod.fst = firstMatch s.table hash :=
  (findFrom_index hash 0 s.table).trans Option.map_id'

/-- The first match is the slot LOOKUP finds, with the entry that stands there (R102). -/
theorem findSlot_of_firstMatch {s : State} {hash : Byte} {k : Nat} {e : Entry}
    (hfirst : firstMatch s.table hash = some k) (hslot : s.table[k]? = some (some e)) :
    findSlot s hash = some (k, e) := by
  rw [← findSlot_index] at hfirst
  obtain ⟨⟨j, x⟩, hfound, rfl⟩ := Option.map_eq_some_iff.mp hfirst
  obtain ⟨hx, _⟩ := findSlot_mem hfound
  obtain rfl : e = x := Option.some.inj (Option.some.inj (hslot.symm.trans hx))
  exact hfound

theorem exec_lookup {hash : Byte} (hne : hash ≠ hashAlive) (s : State) :
    exec (.lookup hash) s = .next (withResult s (.slot (firstMatch s.table hash))) := by
  change execLookup hash s = _
  rw [execLookup, if_neg hne, findSlot_index]

/-- Settles O15. -/
theorem lookupReturnsFirstMatch : Obligations.LookupReturnsFirstMatch := fun s _ hne => exec_lookup hne s

/-! ### REGISTER -/

theorem exec_register_of_filled {s : State} {hash : Byte} {handler : Handler} {context : Context} {table : List Slot}
    (hfill : fillFirst ⟨hash, handler, context⟩ s.table = some table) :
    exec (.register hash (some handler) context) s = .next (withResult { s with table := table } (.bool true)) := by
  change execRegister hash (some handler) context s = _
  simp only [execRegister, hfill]

theorem exec_register_of_full {s : State} (hfull : none ∉ s.table) (hash : Byte) (handler : Handler) (context : Context) :
    exec (.register hash (some handler) context) s = .next (withResult s (.bool false)) := by
  change execRegister hash (some handler) context s = _
  simp only [execRegister, fillFirst_eq_none.mpr hfull]

/-- Settles O14: the scan stops at the first empty slot, or at the end of a table without one. -/
theorem registerFillsLowestEmptySlot : Obligations.RegisterFillsLowestEmptySlot := by
  intro s hash handler context
  refine ⟨fun entries rest htable => ?_, fun hfull => exec_register_of_full hfull hash handler context⟩
  exact exec_register_of_filled (htable ▸ fillFirst_occupied_append ⟨hash, handler, context⟩ entries rest)

/-- Empty slots hold no hash. -/
theorem firstMatch_replicate_none (hash : Byte) (free : Nat) : firstMatch (List.replicate free none) hash = none := by
  simp [firstMatch]

/-- A hash found among occupied slots is found there whatever stands behind them (R102). -/
theorem firstMatch_append_of_some {front : List Slot} {hash : Byte} {k : Nat} (h : firstMatch front hash = some k)
    (back : List Slot) : firstMatch (front ++ back) hash = some k := by
  rw [firstMatch] at h
  rw [firstMatch, List.findIdx?_append, h, Option.some_or]

/-- A hash found in a table with only empty slots behind its front is found in that front. -/
theorem firstMatch_front {front : List Slot} {hash : Byte} {free k : Nat}
    (h : firstMatch (front ++ List.replicate free none) hash = some k) : firstMatch front hash = some k := by
  have hnone := firstMatch_replicate_none hash free
  rw [firstMatch] at hnone
  rwa [firstMatch, List.findIdx?_append, hnone, Option.map_none, Option.or_none] at h

/-- Settles O16: the new entry stands behind every occupied slot, so it cannot be matched before them. -/
theorem firstRegistrationWins : Obligations.FirstRegistrationWins := by
  rintro s t hash newHash handler context k ⟨entries, free, htable⟩ hne hlookup hregister
  have hfirst : firstMatch s.table hash = some k := by
    have hresult := Host.Outcome.next.inj ((exec_lookup hne s).symm.trans hlookup)
    exact Result.slot.inj (congrArg State.result hresult)
  suffices hstill : firstMatch t.table hash = some k by
    rw [exec_lookup hne t, hstill]
    rfl
  have hfront := firstMatch_front (htable ▸ hfirst)
  cases free with
  | zero =>
    have hfull : none ∉ s.table := by simp [htable]
    cases (exec_register_of_full hfull newHash handler context).symm.trans hregister
    exact hfirst
  | succ free =>
    have hfill := fillFirst_occupied_append ⟨newHash, handler, context⟩ entries (List.replicate free none)
    rw [← List.replicate_succ, ← htable] at hfill
    cases (exec_register_of_filled hfill).symm.trans hregister
    exact firstMatch_append_of_some hfront _

/-- REGISTER writes an empty slot, so an occupied one stays (R100, R101). -/
theorem fillFirst_keeps_occupied {e x : Entry} {table table' : List Slot} {k : Nat}
    (hfill : fillFirst e table = some table') (hk : table[k]? = some (some x)) : table'[k]? = some (some x) := by
  obtain ⟨entries, rest, rfl, rfl⟩ := fillFirst_eq_some hfill
  rcases Nat.lt_trichotomy k (entries.map some).length with hlt | rfl | hgt
  · rwa [List.getElem?_append_left hlt] at hk ⊢
  · rw [List.getElem?_append_right (Nat.le_refl _), Nat.sub_self] at hk
    cases hk
  · obtain ⟨j, hj⟩ : ∃ j, k - (entries.map some).length = j + 1 := ⟨_, (Nat.succ_pred (by omega)).symm⟩
    rw [List.getElem?_append_right (Nat.le_of_lt hgt), hj] at hk ⊢
    exact hk

/-! ### Every other operation but RESET leaves the table alone (R101) -/

theorem completeLink_table {s t : State} (h : completeLink s = .ok t) : t.table = s.table := by
  unfold completeLink at h
  split at h
  · exact (builderOnly_of_dispatchPacket h).table
  · cases h
    rfl

theorem headerArm_table (s : State) (b : Byte) : (headerArm s b).2.table = s.table := by
  unfold headerArm
  split <;> rfl

theorem lengthArm_table (s : State) (b : Byte) : (lengthArm s b).2.table = s.table := by
  unfold lengthArm
  split <;> rfl

theorem payloadArm_table {s t : State} {b : Byte} {st : Status} (h : payloadArm s b = .ok (st, t)) :
    t.table = s.table := by
  obtain ⟨_, rfl⟩ := payloadArm_eq_ok h
  rfl

theorem checkMatchArm_table {s t : State} {st : Status} (h : checkMatchArm s = .ok (st, t)) : t.table = s.table :=
  completeLink_table (s := { s with decState := .awaitHeader }) (checkMatchArm_eq_ok h)

theorem deliverByte_table {s t : State} {b : Byte} (h : deliverByte s b = .next t) : t.table = s.table := by
  obtain ⟨_, st, u, harm, rfl⟩ := deliverByte_eq_next.mp h
  rw [withResult_table]
  obtain ⟨_, rfl⟩ | ⟨_, rfl⟩ | ⟨_, _, hp⟩ | ⟨_, _, hc⟩ | ⟨_, _, rfl⟩ := decodeArm_cases harm
  · exact headerArm_table s b
  · exact lengthArm_table s b
  · exact payloadArm_table hp
  · exact checkMatchArm_table hc
  · rfl

theorem addFrame_table (s : State) (type hash command : Byte) (payload : List Byte) (n : Nat) :
    (addFrame s type hash command payload n).2.table = s.table := by
  unfold addFrame
  split <;> rfl

theorem table_of_next {s t u : State} {r : Result} (hu : u.table = s.table)
    (h : Host.Outcome.next (withResult u r) = (.next t : Host.Outcome State Fault Refusal)) : t.table = s.table := by
  cases h
  exact hu

/-- Only RESET and REGISTER write the table (R101). -/
theorem exec_keepsTable {i : Instr} {s t : State} (hreset : i ≠ .reset)
    (hregister : ∀ hash handler context, i ≠ .register hash handler context) (h : exec i s = .next t) :
    t.table = s.table := by
  cases i with
  | reset => exact absurd rfl hreset
  | register hash handler context => exact absurd rfl (hregister hash handler context)
  | decodeByte | pktHeader | pktLength | pktPayload | pktChecksum => exact deliverByte_table h
  | addData | add =>
    obtain ⟨_, h⟩ := next_of_guarded h
    exact table_of_next (addFrame_table ..) h
  | addRequest => exact table_of_next (addFrame_table ..) h
  | build | finalize =>
    obtain ⟨sent, u, hf, rfl⟩ := finishBool_eq_next.mp h
    exact (builderOnly_of_finalizePacket hf).table
  | txSend =>
    obtain ⟨u, hsend, rfl⟩ := execTxSend_eq_next h
    exact (builderOnly_of_sendPacket hsend).table
  | decReset =>
    obtain ⟨_, h⟩ := next_of_not_refused h
    cases h
    rfl
  | runDispatch =>
    obtain ⟨u, hd, rfl⟩ | rfl := execRunDispatch_eq_next h
    · exact (builderOnly_of_dispatchPacket hd).table
    · rfl
  | unassignedOp code => cases h
  | checksum | cksStep | sfCheck =>
    cases h
    rfl
  | lookup hash =>
    obtain ⟨_, h⟩ := next_of_not_refused h
    exact table_of_next rfl h
  | decHeader b =>
    obtain ⟨_, h⟩ := next_of_guarded h
    exact table_of_next (headerArm_table s b) h
  | decLength b =>
    obtain ⟨_, h⟩ := next_of_guarded h
    exact table_of_next (lengthArm_table s b) h
  | decPayload b =>
    obtain ⟨_, h⟩ := next_of_guarded h
    obtain ⟨st, u, hp, rfl⟩ := finishStatus_eq_next.mp h
    exact (withResult_table ..).trans (payloadArm_table hp)
  | decCheckMatch b =>
    obtain ⟨_, h⟩ := next_of_guarded h
    obtain ⟨st, u, hc, rfl⟩ := finishStatus_eq_next.mp h
    exact (withResult_table ..).trans (checkMatchArm_table hc)
  | decCheckMismatch b =>
    obtain ⟨_, h⟩ := next_of_guarded h
    cases h
    rfl
  | complete =>
    obtain ⟨u, hc, rfl⟩ := execComplete_eq_next h
    exact (withResult_table ..).trans (completeLink_table hc)
  | dispatch total =>
    obtain ⟨u, hd, rfl⟩ := execDispatch_eq_next h
    exact (builderOnly_of_dispatchPacket hd).table
  | sfAlive command => exact table_of_next (builderOnly_of_routed (answerAlive_routed s command)).table h
  | sfKnown slot type command payload =>
    simp only [exec, execSfKnown] at h
    split at h
    · exact table_of_next (builderOnly_of_routed (callHandler_routed ..)).table h
    · cases h
  | sfUnknown hash command =>
    obtain ⟨_, h⟩ := next_of_guarded h
    exact table_of_next (builderOnly_of_routed (answerUnknown_routed s hash command)).table h
  | callHandler => exact table_of_next (builderOnly_of_routed (callHandler_routed ..)).table h
  | sfData | sfAck | sfNack | sfRequest | sfEmpty | sfClassAlive =>
    exact table_of_next (builderOnly_of_routed (presentSubframe_routed ..)).table h
  | sfClassRegistered | sfClassUnregistered =>
    obtain ⟨_, h⟩ := next_of_guarded h
    exact table_of_next (builderOnly_of_routed (presentSubframe_routed ..)).table h

/-- Settles O17: REGISTER fills an empty slot, every other operation but RESET keeps the table. -/
theorem registrationsStayUntilReset : Obligations.RegistrationsStayUntilReset := by
  intro i s t hreset h k e hk
  by_cases hregister : ∃ hash handler context, i = .register hash handler context
  · obtain ⟨hash, handler, context, rfl⟩ := hregister
    obtain ⟨_, table, hfill, rfl⟩ | rfl := execRegister_eq_next h
    · exact fillFirst_keeps_occupied hfill hk
    · exact hk
  · rw [exec_keepsTable hreset (fun hash handler context hi => hregister ⟨hash, handler, context, hi⟩) h]
    exact hk

end Sys2Proof.Proofs

/-! The handler call (R108, R156, R157), one sub-frame by its hash (R104 to R107), the rows that present one alone (R62, R71),
and the statements on them: O18, O22, O23, O24, O25, O26, O27. -/

namespace Sys2Proof.Proofs

open Sys2Proof.Machine Sys2Proof.Safety

/-! ### What stored bytes read as, and what a sub-frame leaves alone -/

theorem read_writeAll_inside (m : Memory) (a : Nat) {bytes : List Byte} {k : Nat} (hk : k < bytes.length) :
    (m.writeAll a bytes).read (a + k) = bytes[k]? := by
  rw [Memory.read_writeAll, if_pos (by omega), Nat.add_sub_cancel_left]

theorem read_writeAll_outside (m : Memory) {a x : Nat} {bytes : List Byte} (hx : x < a ∨ a + bytes.length ≤ x) :
    (m.writeAll a bytes).read x = m.read x := by
  rw [Memory.read_writeAll, if_neg (by omega)]

theorem BuilderOnly.sameDecoder {s t : State} (h : BuilderOnly s t) : SameDecoder s t :=
  ⟨h.decState, h.cksAcc, h.rxCursor, h.rxLen, h.rxCap, fun a => congrArg (Memory.read · a) h.rxBuf⟩

theorem BuilderOnly.sameTable {s t : State} (h : BuilderOnly s t) : SameTable s t := ⟨h.table, h.pktReady⟩

/-! ### SF_CHECK (R104) -/

theorem sfCheckPasses_of_malformed {offset length total : Nat} (h : length < sfHdr ∨ total < offset + length) :
    sfCheckPasses offset length total = false := by
  rw [← Bool.not_eq_true, sfCheckPasses_iff]
  omega

/-- Settles O18. -/
theorem subframeCheckBounds : Obligations.SubframeCheckBounds := by
  intro s offset length total
  have hbounds : sfCheckPasses offset length.toNat total = decide (4 ≤ length.toNat ∧ offset + length.toNat ≤ total) :=
    Bool.eq_iff_iff.mpr (sfCheckPasses_iff.trans decide_eq_true_iff.symm)
  change execSfCheck offset length total s = _
  rw [execSfCheck, hbounds]
  rfl

/-! ### CALL_HANDLER -/

theorem exec_callHandler (s : State) (c : HandlerCall) :
    exec (.callHandler c.handler c.context c.type c.command c.payload) s = .next (withResult (callHandler s c) .nothing) :=
  rfl

theorem callHandler_trace (s : State) (c : HandlerCall) : (callHandler s c).trace = s.trace ++ [.call c] := by
  obtain ⟨frames, heq, _⟩ := callHandler_eq s c
  rw [heq]
  rfl

/-- Settles O26: a call is one event and sub-frames appended at the cursor. -/
theorem handlerCallTouchesOnlyAccumulator : Obligations.HandlerCallTouchesOnlyAccumulator := by
  intro s handler context type command payload
  obtain ⟨frames, heq, hlimit, _⟩ := callHandler_eq s ⟨handler, context, type, command, payload⟩
  have hb := builderOnly_of_routed (callHandler_routed s ⟨handler, context, type, command, payload⟩)
  have hexec := exec_callHandler s ⟨handler, context, type, command, payload⟩
  rw [heq] at hlimit hb hexec
  exact ⟨_, hexec, rfl, rfl, List.drop_one, rfl, hb.sameDecoder, hb.sameTable, rfl, rfl, rfl, Nat.le_add_right ..,
    hlimit, fun _ ha => read_writeAll_outside _ ha⟩

/-- A handler runs the first queued answer, or with none queued the free value (R108, log entry 4). -/
theorem handlerScript_eq {s : State} {c : HandlerCall} {script : Script} {rest : List Script}
    (h : s.answers = script :: rest ∨ (s.answers = [] ∧ rest = [] ∧ script = Config.handlerAnswer s.calls c)) :
    handlerScript s c = script ∧ s.answers.tail = rest := by
  obtain hqueued | ⟨hnone, rfl, rfl⟩ := h
  · simp only [handlerScript, hqueued, List.tail_cons, and_self]
  · simp only [handlerScript, hnone, List.tail_nil, and_self]

/-- An ADD chooses the handler's next operation by its result (R108). -/
theorem runScript_add (s : State) (op : AddOp) (ifTrue ifFalse : Script) :
    runScript (.add op ifTrue ifFalse) s =
      runScript (if (runAddOp s op).1 then ifTrue else ifFalse) (runAddOp s op).2 := by
  rw [runScript]
  rcases runAddOp s op with ⟨_ | _, t⟩ <;> rfl

theorem runAddOp_result (s : State) (op : AddOp) : (runAddOp s op).2.result = s.result := by
  obtain ⟨frames, heq, _⟩ := runAddOp_appends s op
  rw [heq]
  rfl

/-- The port operation of a handler's ADD: ADD_DATA of as many bytes as a `u8` can count, or ADD_REQUEST (R121, R122). -/
def PortForm (op : AddOp) (i : Instr) : Prop :=
  (∃ hash command payload, op = .data hash command payload ∧ payload.length ≤ 255 ∧
      i = .addData hash command payload (BitVec.ofNat 8 payload.length)) ∨
    (∃ type hash command, op = .request type hash command ∧ i = .addRequest type hash command)

/-- A handler's ADD and its port form do the same to the state and answer the same boolean (R108). -/
theorem exec_portForm {op : AddOp} {i : Instr} (h : PortForm op i) (s : State) :
    exec i s = .next (withResult (runAddOp s op).2 (.bool (runAddOp s op).1)) := by
  obtain ⟨hash, command, payload, rfl, hle, rfl⟩ | ⟨type, hash, command, rfl, rfl⟩ := h
  · have hlen : payload.length = (BitVec.ofNat 8 payload.length).toNat := by
      rw [BitVec.toNat_ofNat]
      omega
    change execAddData hash command payload _ s = _
    rw [execAddData, if_pos hlen, ← hlen]
    rfl
  · rfl

/-- Settles O27: the call runs the answer from the handler's entry state, and each ADD does what its port form does. -/
theorem handlerOperationsActAsPortOperations : Obligations.HandlerOperationsActAsPortOperations := by
  refine ⟨fun s handler context type command payload script rest hanswer => ?_, fun s => rfl,
    fun s u op i ok ifTrue ifFalse hport hexec hok => ?_⟩
  · obtain ⟨hscript, hrest⟩ := handlerScript_eq hanswer
    rw [exec_callHandler s ⟨handler, context, type, command, payload⟩, callHandler, hscript, enterHandler, hrest]
    rfl
  · have hrun := exec_portForm hport s
    cases hrun.symm.trans hexec
    obtain rfl : (runAddOp s op).1 = ok := Result.bool.inj hok
    rw [runScript_add, ← runAddOp_result s op]
    rfl

/-! ### The replies: an ACK or a NACK that fits, or nothing (R105, R107, D12) -/

theorem addRequestFrame_of_room {s : State} (hroom : Room s 4) (type hash command : Byte) :
    addRequestFrame s type hash command = (true, appendBytes s [4, type, hash, command]) :=
  (addFrame_whole s type hash command [] (.inr rfl)).trans (if_pos hroom)

theorem addRequestFrame_of_no_room {s : State} (hroom : ¬ Room s 4) (type hash command : Byte) :
    addRequestFrame s type hash command = (false, s) :=
  (addFrame_whole s type hash command [] (.inr rfl)).trans (if_neg hroom)

theorem appended_appendBytes (bytes : List Byte) (s : State) (r : Result) :
    Appended bytes s (withResult (appendBytes s bytes) r) :=
  ⟨rfl, fun _ hk => read_writeAll_inside _ _ hk, fun _ ha => read_writeAll_outside _ ha, rfl,
    ⟨rfl, rfl, rfl, rfl, rfl, fun _ => rfl⟩, ⟨rfl, rfl⟩, ⟨rfl, rfl, rfl, rfl⟩, rfl⟩

/-- A row that answers by ADD_REQUEST appends four bytes, or with no room for them nothing (R105, R107, D12). -/
theorem reply_appended_or_dropped {s : State} {i : Instr} {type hash command : Byte}
    (h : exec i s = .next (withResult (addRequestFrame s type hash command).2 .nothing)) :
    (Room s 4 → ∃ t, exec i s = .next t ∧ Appended [4, type, hash, command] s t ∧ t.result = .nothing) ∧
      (¬ Room s 4 → exec i s = .next { s with result := .nothing }) := by
  refine ⟨fun hroom => ?_, fun hroom => ?_⟩
  · rw [addRequestFrame_of_room hroom] at h
    exact ⟨_, h, appended_appendBytes _ s _, rfl⟩
  · rw [addRequestFrame_of_no_room hroom] at h
    exact h

/-! ### One sub-frame, by its hash (R103) -/

theorem routeSubframe_alive {f : Subframe} (h : f.hash = hashAlive) (s : State) :
    routeSubframe s f = answerAlive s f.command :=
  if_pos h

theorem routeSubframe_known {s : State} {f : Subframe} {k : Nat} {e : Entry} (hne : f.hash ≠ hashAlive)
    (hfound : findSlot s f.hash = some (k, e)) : routeSubframe s f = deliverKnown s e f.type f.command f.payload := by
  simp only [routeSubframe, if_neg hne, hfound]

theorem routeSubframe_unknown {s : State} {f : Subframe} (hne : f.hash ≠ hashAlive)
    (hnone : findSlot s f.hash = none) : routeSubframe s f = answerUnknown s f.hash f.command := by
  simp only [routeSubframe, if_neg hne, hnone]

/-! ### A sub-frame row is one round of DISPATCH (log entry 9) -/

/-- The row answers what presenting the sub-frame does to the state, and returns nothing. -/
def PresentsSubframe (s : State) (i : Instr) (length type hash command : Byte) (rest : List Byte) : Prop :=
  exec i s = .next (withResult (presentSubframe s length type hash command rest) .nothing)

section Rows

variable {s : State} {i : Instr} {length type hash command : Byte} {rest : List Byte}

theorem kindRows_presents (h : (type, i) ∈ kindRows s.cfg length hash command rest) :
    PresentsSubframe s i length type hash command rest := by
  simp only [kindRows, List.mem_cons, List.not_mem_nil, or_false, Prod.mk.injEq] at h
  obtain ⟨rfl, rfl⟩ | ⟨rfl, rfl⟩ | ⟨rfl, rfl⟩ | ⟨rfl, rfl⟩ | ⟨rfl, rfl⟩ := h <;> rfl

theorem kindRows_snd_presents (h : i ∈ (kindRows s.cfg length hash command rest).map Prod.snd) :
    ∃ type, PresentsSubframe s i length type hash command rest := by
  obtain ⟨⟨type, i⟩, hmem, rfl⟩ := List.mem_map.mp h
  exact ⟨type, kindRows_presents hmem⟩

theorem sfClassAlive_presents :
    PresentsSubframe s (.sfClassAlive length type command rest) length type hashAlive command rest := rfl

theorem sfClassRegistered_presents (hne : hash ≠ hashAlive) (hfound : (findSlot s hash).isSome) :
    PresentsSubframe s (.sfClassRegistered length type hash command rest) length type hash command rest :=
  if_pos ⟨hne, hfound⟩

theorem sfClassUnregistered_presents (hne : hash ≠ hashAlive) (hnone : findSlot s hash = none) :
    PresentsSubframe s (.sfClassUnregistered length type hash command rest) length type hash command rest :=
  if_pos ⟨hne, hnone⟩

theorem presentSubframe_of_wellFormed (hhdr : sfHdr ≤ length.toNat) (hin : length.toNat ≤ sfHdr + rest.length) :
    presentSubframe s length type hash command rest =
      routeSubframe s ⟨type, hash, command, rest.take (length.toNat - sfHdr)⟩ :=
  if_pos (sfCheckPasses_iff.mpr ⟨hhdr, (Nat.zero_add _).trans_le hin⟩)

theorem presentSubframe_of_malformed (h : length.toNat < sfHdr ∨ sfHdr + rest.length < length.toNat) :
    presentSubframe s length type hash command rest = s := by
  have hfails : sfCheckPasses 0 length.toNat (sfHdr + rest.length) = false :=
    sfCheckPasses_of_malformed (by omega)
  rw [presentSubframe, hfails]
  rfl

/-- A row run on a well-formed sub-frame routes it by its hash (R103, R104). -/
theorem PresentsSubframe.exec_eq (h : PresentsSubframe s i length type hash command rest) (hhdr : sfHdr ≤ length.toNat)
    (hin : length.toNat ≤ sfHdr + rest.length) :
    exec i s = .next (withResult (routeSubframe s ⟨type, hash, command, rest.take (length.toNat - sfHdr)⟩) .nothing) := by
  rw [h, presentSubframe_of_wellFormed hhdr hin]

end Rows

/-- Settles O22: SF_ALIVE and every row of a sub-frame with hash 0 answer by the ACK. -/
theorem aliveProbeIsAcknowledged : Obligations.AliveProbeIsAcknowledged := by
  intro s length type command rest i hhdr hin hi
  apply reply_appended_or_dropped (type := s.cfg.typeAck) (hash := hashAlive)
  obtain rfl | rfl | hkind := hi
  · rfl
  · rw [sfClassAlive_presents.exec_eq hhdr hin, routeSubframe_alive rfl]
    rfl
  · obtain ⟨type, hrow⟩ := kindRows_snd_presents hkind
    rw [hrow.exec_eq hhdr hin, routeSubframe_alive rfl]
    rfl

/-- Settles O23: SF_UNKNOWN and every row of a sub-frame with an unregistered hash answer by the NACK. -/
theorem unknownHashIsNacked : Obligations.UnknownHashIsNacked := by
  intro s length type hash command rest i hhdr hin hne hunknown hi
  have hnone : findSlot s hash = none := findSlot_eq_none.mpr hunknown
  apply reply_appended_or_dropped (type := s.cfg.typeNack)
  obtain rfl | rfl | hkind := hi
  · exact if_pos ⟨hne, hnone⟩
  · rw [(sfClassUnregistered_presents hne hnone).exec_eq hhdr hin, routeSubframe_unknown hne hnone]
    rfl
  · obtain ⟨type, hrow⟩ := kindRows_snd_presents hkind
    rw [hrow.exec_eq hhdr hin, routeSubframe_unknown hne hnone]
    rfl

theorem exec_sfKnown {s : State} {k : Nat} {e : Entry} (hslot : s.table[k]? = some (some e)) (type command : Byte)
    (payload : List Byte) :
    exec (.sfKnown k type command payload) s = .next (withResult (deliverKnown s e type command payload) .nothing) := by
  change execSfKnown k type command payload s = _
  simp only [execSfKnown, hslot]

/-- Settles O24: each row delivers the sub-frame to the entry's handler, which is CALL_HANDLER with its arguments. -/
theorem knownHashIsDelivered : Obligations.KnownHashIsDelivered := by
  refine ⟨fun s length type hash command rest k e i hhdr hin hne hfirst hslot hi => ?_,
    fun s k e type command payload hslot => ?_⟩
  · have hfound : findSlot s hash = some (k, e) := findSlot_of_firstMatch hfirst hslot
    have hrow : PresentsSubframe s i length type hash command rest := by
      obtain rfl | hkind := hi
      · exact sfClassRegistered_presents hne (by rw [hfound]; rfl)
      · exact kindRows_presents hkind
    have hexec := hrow.exec_eq hhdr hin
    rw [routeSubframe_known hne hfound] at hexec
    exact ⟨_, hexec, rfl, callHandler_trace s _⟩
  · exact ⟨_, exec_sfKnown hslot type command payload, rfl, callHandler_trace s _⟩

/-- Settles O25: whatever row presents it, a malformed sub-frame leaves the state as it is. -/
theorem malformedSubframeIsIgnored : Obligations.MalformedSubframeIsIgnored := by
  intro s length type hash command rest i hmalformed hi
  suffices hrow : ∃ type, PresentsSubframe s i length type hash command rest by
    obtain ⟨type, hrow⟩ := hrow
    rw [hrow, presentSubframe_of_malformed hmalformed]
    rfl
  obtain ⟨rfl, rfl⟩ | ⟨hne, ⟨e, he, hhash⟩, rfl⟩ | ⟨hne, hunknown, rfl⟩ | hkind := hi
  · exact ⟨type, sfClassAlive_presents⟩
  · have hfound : findSlot s hash ≠ none := fun hnone => findSlot_eq_none.mp hnone e he hhash
    exact ⟨type, sfClassRegistered_presents hne (Option.isSome_iff_ne_none.mpr hfound)⟩
  · exact ⟨type, sfClassUnregistered_presents hne (findSlot_eq_none.mpr hunknown)⟩
  · exact kindRows_snd_presents hkind

end Sys2Proof.Proofs

/-! DISPATCH over a held payload (R103, R104, R109): the loop as a fold over the payload's sub-frames, the rows that name them
(R62, R71), the packet that answers them (R111), and the statements on them: O19, O20, O21, O28, O29, O54. -/

namespace Sys2Proof.Proofs

open Sys2Proof.Machine Sys2Proof.Safety

/-! ### A payload as its sub-frames -/

theorem parsePayload_of_malformed {length : Byte} {tail : List Byte}
    (h : length.toNat < sfHdr ∨ tail.length + 1 < length.toNat) (rounds : Nat) :
    parsePayload rounds (length :: tail) = [] := by
  cases rounds with
  | zero => rfl
  | succ rounds =>
    match tail with
    | [] | [_] | [_, _] => rfl
    | type :: hash :: command :: rest =>
      simp only [List.length_cons, sfHdr] at h
      exact if_neg (by simp only [sfHdr]; omega)

theorem parsePayload_of_wellFormed {length : Byte} {rest : List Byte} (hhdr : sfHdr ≤ length.toNat)
    (hin : length.toNat ≤ sfHdr + rest.length) (rounds : Nat) (type hash command : Byte) :
    parsePayload (rounds + 1) (length :: type :: hash :: command :: rest) =
      ⟨type, hash, command, rest.take (length.toNat - sfHdr)⟩ ::
        parsePayload rounds (rest.drop (length.toNat - sfHdr)) :=
  if_pos ⟨hhdr, by omega⟩

/-- Each parsed sub-frame has the length its length byte says, which is a `u8` (R65). -/
theorem parsePayload_small (rounds : Nat) (bytes : List Byte) :
    ∀ f ∈ parsePayload rounds bytes, sfHdr + f.payload.length ≤ 255 := by
  induction rounds generalizing bytes with
  | zero => exact fun _ hf => nomatch hf
  | succ rounds ih =>
    match bytes with
    | [] | [_] | [_, _] | [_, _, _] => exact fun _ hf => nomatch hf
    | length :: type :: hash :: command :: rest =>
      rw [parsePayload]
      split
      · next hwf =>
        intro f hf
        rcases List.mem_cons.mp hf with rfl | hf
        · have hbyte := length.isLt
          simp only [List.length_take]
          omega
        · exact ih _ f hf
      · exact fun _ hf => nomatch hf

/-- The length byte of a sub-frame that fits one (R61, R65). -/
theorem toNat_subframeLength {f : Subframe} (h : sfHdr + f.payload.length ≤ 255) :
    (BitVec.ofNat 8 (sfHdr + f.payload.length)).toNat = sfHdr + f.payload.length := by
  rw [BitVec.toNat_ofNat]
  exact Nat.mod_eq_of_lt (by omega)

/-- The bytes of a sub-frame are parsed as that sub-frame (R61, R63). -/
theorem parsePayload_subframeBytes {f : Subframe} (h : sfHdr + f.payload.length ≤ 255) (rounds : Nat) (more : List Byte) :
    parsePayload (rounds + 1) (subframeBytes f ++ more) = f :: parsePayload rounds more := by
  have hlen := toNat_subframeLength h
  have hparse := parsePayload_of_wellFormed (length := BitVec.ofNat 8 (sfHdr + f.payload.length)) (rest := f.payload ++ more)
    (by omega) (by rw [hlen, List.length_append]; omega) rounds f.type f.hash f.command
  rwa [hlen, Nat.add_sub_cancel_left, List.take_left, List.drop_left] at hparse

/-! ### The loop reads what the payload holds -/

theorem readRx_of_getElem? {s : State} {n i : Nat} {bytes : List Byte} {b : Byte} (h : RxHolds s n bytes)
    (hi : bytes[i]? = some b) : readRx s i = .ok b := by
  obtain ⟨hlen, hget⟩ := readRxRange_eq_ok.mp h
  obtain ⟨hlt, _⟩ := List.getElem?_eq_some_iff.mp hi
  obtain ⟨hcap, hread⟩ := hget i (by omega)
  rw [Nat.zero_add] at hcap hread
  exact readRx_eq_ok.mpr ⟨hcap, hread.trans hi⟩

section Held

variable {s : State} {total offset : Nat} {payload : List Byte}

/-- The byte `j` places after `offset` of a held payload. -/
theorem readRx_of_drop {b : Byte} (h : RxHolds s total payload) (j : Nat) (hb : (payload.drop offset)[j]? = some b) :
    readRx s (offset + j) = .ok b :=
  readRx_of_getElem? h (by rwa [List.getElem?_drop] at hb)

/-- A sub-frame that stands in a held payload is fetched as its fields (R44, R61). -/
theorem fetchSubframe_of_drop {length type hash command : Byte} {rest : List Byte} (h : RxHolds s total payload)
    (hdrop : payload.drop offset = length :: type :: hash :: command :: rest)
    (hhdr : sfHdr ≤ length.toNat) (hin : offset + length.toNat ≤ total) :
    fetchSubframe s offset length.toNat = .ok ⟨type, hash, command, rest.take (length.toNat - sfHdr)⟩ := by
  have hrest : payload.drop (offset + sfHdr) = rest := by rw [← List.drop_drop, hdrop]; rfl
  have hpayload := readRxRange_of_rxHolds h (a := offset + sfHdr) (m := length.toNat - sfHdr) (by omega)
  rw [hrest] at hpayload
  exact fetchSubframe_eq_ok (readRx_of_drop h 1 (by rw [hdrop]; rfl)) (readRx_of_drop h 2 (by rw [hdrop]; rfl))
    (readRx_of_drop h 3 (by rw [hdrop]; rfl)) hpayload

end Held

/-- The loop ends at a sub-frame that SF_CHECK rejects (R104, D11). -/
theorem dispatchLoop_of_malformed {s : State} {offset total : Nat} {length : Byte} (hread : readRx s offset = .ok length)
    (hfails : sfCheckPasses offset length.toNat total = false) (rounds : Nat) :
    dispatchLoop rounds offset total s = .ok s := by
  cases rounds with
  | zero => rfl
  | succ rounds =>
    simp only [dispatchLoop, hread, hfails, Bool.false_eq_true, if_false, ite_self]

theorem dispatchLoop_of_end {s : State} {offset total : Nat} (hend : total ≤ offset) (rounds : Nat) :
    dispatchLoop rounds offset total s = .ok s := by
  cases rounds with
  | zero => rfl
  | succ rounds => exact if_neg (Nat.not_lt.mpr hend)

/-- One round routes a well-formed sub-frame and goes on behind it (R103). -/
theorem dispatchLoop_of_wellFormed {s : State} {offset total : Nat} {length : Byte} {f : Subframe}
    (hread : readRx s offset = .ok length) (hpasses : sfCheckPasses offset length.toNat total = true)
    (hfetch : fetchSubframe s offset length.toNat = .ok f) (rounds : Nat) :
    dispatchLoop (rounds + 1) offset total s =
      dispatchLoop rounds (offset + length.toNat) total (routeSubframe s f) := by
  obtain ⟨hhdr, hin⟩ := sfCheckPasses_iff.mp hpasses
  have hfour : sfHdr = 4 := rfl
  have hlt : offset < total := by omega
  simp only [dispatchLoop, if_pos hlt, hread, hpasses, if_true, hfetch]

/-- The loop of DISPATCH routes, one after the other, the sub-frames that what is left of the payload parses into (R103). -/
theorem dispatchLoop_eq_foldl {s : State} {total : Nat} {payload : List Byte} (h : RxHolds s total payload)
    (rounds offset : Nat) :
    dispatchLoop rounds offset total s =
      .ok ((parsePayload rounds (payload.drop offset)).foldl routeSubframe s) := by
  have hlen : payload.length = total := (readRxRange_eq_ok.mp h).1
  induction rounds generalizing s offset with
  | zero => rfl
  | succ rounds ih =>
    cases hdrop : payload.drop offset with
    | nil => exact dispatchLoop_of_end (hlen ▸ List.drop_eq_nil_iff.mp hdrop) _
    | cons length tail =>
      have hread : readRx s offset = .ok length := readRx_of_drop h 0 (by rw [hdrop]; rfl)
      have hleft : tail.length + 1 = total - offset := by
        rw [← hlen, ← List.length_drop, hdrop, List.length_cons]
      cases hcheck : sfCheckPasses offset length.toNat total with
      | false =>
        have hmalformed : length.toNat < sfHdr ∨ tail.length + 1 < length.toNat := by
          rw [← Bool.not_eq_true, sfCheckPasses_iff] at hcheck
          omega
        rw [dispatchLoop_of_malformed hread hcheck, parsePayload_of_malformed hmalformed]
        rfl
      | true =>
        obtain ⟨hhdr, hin⟩ := sfCheckPasses_iff.mp hcheck
        have hfour : sfHdr = 4 := rfl
        obtain ⟨type, hash, command, rest, rfl⟩ : ∃ type hash command rest, tail = type :: hash :: command :: rest := by
          match tail, hleft with
          | type :: hash :: command :: rest, _ => exact ⟨type, hash, command, rest, rfl⟩
          | [], hleft | [_], hleft | [_, _], hleft =>
            simp only [List.length_cons, List.length_nil] at hleft
            omega
        simp only [List.length_cons] at hleft
        have hbehind : payload.drop (offset + length.toNat) = rest.drop (length.toNat - sfHdr) := by
          obtain ⟨m, hm⟩ := Nat.exists_eq_add_of_le' hhdr
          rw [← List.drop_drop, hdrop, hm]
          rfl
        rw [dispatchLoop_of_wellFormed hread hcheck (fetchSubframe_of_drop h hdrop hhdr hin),
          ih (rxHolds_of_routed (routeSubframe_routed s _) h), hbehind,
          parsePayload_of_wellFormed hhdr (by omega), List.foldl_cons]

/-! ### DISPATCH is the fold, then one FINALIZE -/

/-- The state once the sub-frames of a payload are handled, before the FINALIZE of the dispatch (R103). -/
def handled (s : State) (payload : List Byte) : State :=
  (parsePayload payload.length payload).foldl routeSubframe s

theorem dispatchLoop_eq_handled {s : State} {payload : List Byte} (h : RxHolds s payload.length payload) :
    dispatchLoop payload.length 0 payload.length s = .ok (handled s payload) :=
  dispatchLoop_eq_foldl h payload.length 0

theorem handled_routed {s : State} {payload : List Byte} (h : RxHolds s payload.length payload) :
    Routed s (handled s payload) :=
  dispatchLoop_routed (dispatchLoop_eq_handled h)

theorem exec_dispatch_of_finalizePacket {s w : State} {payload : List Byte} {sent : Bool}
    (h : RxHolds s payload.length payload) (hf : finalizePacket (handled s payload) = .ok (sent, w)) :
    exec (.dispatch payload.length) s = .next (withResult w .nothing) :=
  exec_dispatch_of_ok (le_rxCapacity_of_rxHolds h)
    (dispatchPacket_eq_ok.mpr ⟨handled s payload, sent, dispatchLoop_eq_handled h, hf⟩)

theorem exec_finalize_of_ok {s w : State} {sent : Bool} (hf : finalizePacket s = .ok (sent, w)) :
    exec .finalize s = .next (withResult w (.bool sent)) := by
  change execFinalize s = _
  rw [execFinalize, hf]
  rfl

/-- The FINALIZE of a dispatch completes, since the sub-frames only append to a readable accumulator (R124, R171). -/
theorem finalizePacket_handled {s : State} {payload pend : List Byte} (h : RxHolds s payload.length payload)
    (hp : TxHolds s pend) : ∃ sent w, finalizePacket (handled s payload) = .ok (sent, w) := by
  obtain ⟨more, hmore⟩ := txHolds_of_routed (handled_routed h) hp
  exact finalizePacket_completes hmore

/-- Settles O19: the loop is the fold over the parsed payload. -/
theorem dispatchIsFoldOverParsedPayload : Obligations.DispatchIsFoldOverParsedPayload := by
  intro s payload pend _ hrx htx
  obtain ⟨sent, w, hf⟩ := finalizePacket_handled hrx htx
  have hb : BuilderOnly s w := (builderOnly_of_routed (handled_routed hrx)).trans (builderOnly_of_finalizePacket hf)
  have hdispatch := exec_dispatch_of_finalizePacket hrx hf
  exact ⟨handled s payload, _, rfl, exec_finalize_of_ok hf, hdispatch, hb.sameDecoder, hb.sameTable⟩

/-! ### An empty dispatch and a malformed first sub-frame -/

theorem exec_dispatch_zero {s w : State} {sent : Bool} (hf : finalizePacket s = .ok (sent, w)) :
    exec (.dispatch 0) s = .next (withResult w .nothing) :=
  exec_dispatch_of_finalizePacket (s := s) (payload := []) rfl hf

/-- Settles O20. -/
theorem emptyDispatchSendsPending : Obligations.EmptyDispatchSendsPending := by
  intro s
  refine ⟨fun hempty => exec_dispatch_zero (finalizePacket_nothing hempty), fun pend hlt hp => ?_⟩
  obtain ⟨_, hle, hread⟩ := hp
  have hf := finalizePacket_sends hlt hle hread
  have hfinalize := exec_finalize_of_ok hf
  exact ⟨_, exec_dispatch_zero hf, hfinalize, rfl⟩

/-- Settles O21: the loop ends in its first round, as it does with no byte. -/
theorem malformedSubframeEndsDispatch : Obligations.MalformedSubframeEndsDispatch := by
  intro s total length _ hfit hread hmalformed
  have hfails : sfCheckPasses 0 length.toNat total = false := sfCheckPasses_of_malformed (by omega)
  have hpacket : dispatchPacket s total = dispatchPacket s 0 := by
    rw [dispatchPacket, dispatchLoop_of_malformed hread hfails]
    rfl
  change execDispatch total s = execDispatch 0 s
  rw [execDispatch, execDispatch, if_pos hfit, if_pos (Nat.zero_le _), hpacket]

/-! ### The decoded rows of the sub-frames (R62, R71) -/

theorem not_mem_registeredHashes {s : State} {hash : Byte} :
    hash ∉ registeredHashes s ↔ findSlot s hash = none := by
  rw [findSlot_eq_none]
  simp [registeredHashes]

section DecodedRows

variable {ctx : DecodeContext} {s : State} {length type hash command : Byte} {rest : List Byte}

/-- A class row is named by the hash and the table, so it runs on every state that has this table (R71). -/
theorem decodeClass_presents (hreg : ctx.registered = registeredHashes s) :
    PresentsSubframe s (decodeClass ctx length type hash command rest) length type hash command rest := by
  by_cases halive : hash = hashAlive
  · rw [halive, decodeClass_alive]
    exact sfClassAlive_presents
  by_cases hmem : hash ∈ ctx.registered
  · rw [decodeClass_registered _ _ _ _ halive hmem]
    rw [hreg] at hmem
    exact sfClassRegistered_presents halive
      (Option.isSome_iff_ne_none.mpr fun hnone => not_mem_registeredHashes.mpr hnone hmem)
  · rw [decodeClass_unregistered _ _ _ _ halive hmem]
    rw [hreg] at hmem
    exact sfClassUnregistered_presents halive (not_mem_registeredHashes.mp hmem)

/-- The kind of a sub-frame is one of the five, or it is named by its class (R62, R66). -/
theorem decodeKind_cases (ctx : DecodeContext) (length type hash command : Byte) (rest : List Byte) :
    (type, decodeKind ctx length type hash command rest) ∈ kindRows ctx.cfg length hash command rest ∨
      decodeKind ctx length type hash command rest = decodeClass ctx length type hash command rest := by
  unfold decodeKind kindRows
  split_ifs with hdata hack hnack hrequest hempty
  · exact .inl (by simp [hdata])
  · exact .inl (by simp [hack])
  · exact .inl (by simp [hnack])
  · exact .inl (by simp [hrequest])
  · exact .inl (by simp [hempty])
  · exact .inr rfl

theorem decodeKind_presents (hcfg : ctx.cfg = s.cfg) (hreg : ctx.registered = registeredHashes s) :
    PresentsSubframe s (decodeKind ctx length type hash command rest) length type hash command rest := by
  rcases decodeKind_cases ctx length type hash command rest with hkind | hclass
  · exact kindRows_presents (hcfg ▸ hkind)
  · rw [hclass]
    exact decodeClass_presents hreg

end DecodedRows

/-- The context of the matching has the parameters and the table of the state: all that a sub-frame's row reads of it. -/
def Matches (ctx : DecodeContext) (s : State) : Prop := ctx.cfg = s.cfg ∧ ctx.registered = registeredHashes s

theorem Matches.of_routed {ctx : DecodeContext} {s t : State} (h : Matches ctx s) (hrouted : Routed s t) :
    Matches ctx t := by
  obtain ⟨frames, calls, rfl, _⟩ := hrouted
  exact h

/-- The row of a parsed sub-frame, by kind or by class, routes that sub-frame (R71, R103). -/
theorem exec_decodedRow {ctx : DecodeContext} {s : State} {f : Subframe} {i : Instr} (hctx : Matches ctx s)
    (hsmall : sfHdr + f.payload.length ≤ 255) (hi : i = kindRow ctx f ∨ i = classRow ctx f) :
    exec i s = .next (withResult (routeSubframe s f) .nothing) := by
  obtain ⟨hcfg, hreg⟩ := hctx
  have hrow : PresentsSubframe s i (BitVec.ofNat 8 (sfHdr + f.payload.length)) f.type f.hash f.command f.payload := by
    obtain rfl | rfl := hi
    · exact decodeKind_presents hcfg hreg
    · exact decodeClass_presents hreg
  have hlen := toNat_subframeLength hsmall
  have hexec := hrow.exec_eq (by omega) (by omega)
  rwa [hlen, Nat.add_sub_cancel_left, List.take_length] at hexec

theorem foldl_routeSubframe_withResult (frames : List Subframe) (s : State) (r : Result) :
    frames.foldl routeSubframe (withResult s r) = withResult (frames.foldl routeSubframe s) r := by
  induction frames generalizing s with
  | nil => rfl
  | cons f rest ih => rw [List.foldl_cons, routeSubframe_withResult, ih, List.foldl_cons]

/-- Running the rows of some sub-frames is routing them, the result aside (R103). -/
theorem operations_decodedRows {ctx : DecodeContext} {row : Subframe → Instr}
    (hrow : ∀ f, row f = kindRow ctx f ∨ row f = classRow ctx f) {frames : List Subframe} {s : State}
    (hctx : Matches ctx s) (hsmall : ∀ f ∈ frames, sfHdr + f.payload.length ≤ 255) :
    ∃ rs r, operations s (frames.map row) = some (rs, withResult (frames.foldl routeSubframe s) r) := by
  induction frames generalizing s with
  | nil => exact ⟨[], s.result, rfl⟩
  | cons f rest ih =>
    obtain ⟨hf, hrest⟩ := List.forall_mem_cons.mp hsmall
    have hexec := exec_decodedRow hctx hf (hrow f)
    have hctx' : Matches ctx (routeSubframe s f) := hctx.of_routed (routeSubframe_routed s f)
    obtain ⟨rs, r, hrun⟩ := ih (s := withResult (routeSubframe s f) .nothing) hctx' hrest
    rw [foldl_routeSubframe_withResult] at hrun
    exact ⟨_, r, operations_cons hexec hrun⟩

/-- Settles O54: the rows route the parsed sub-frames, and FINALIZE does not read the result they leave. -/
theorem dispatchRunsTheDecodedSubframes : Obligations.DispatchRunsTheDecodedSubframes := by
  intro s payload pend row _ hrx htx hrow
  obtain ⟨rs, r, hrun⟩ := operations_decodedRows hrow (s := s) ⟨rfl, rfl⟩ (parsePayload_small payload.length payload)
  obtain ⟨sent, w, hf⟩ := finalizePacket_handled hrx htx
  have hf' : finalizePacket (withResult (handled s payload) r) = .ok (sent, withResult w r) := by
    rw [finalizePacket_withResult, hf]
    rfl
  have hdispatch := exec_dispatch_of_finalizePacket hrx hf
  exact ⟨rs, _, _, hrun, exec_finalize_of_ok hf', hdispatch⟩

/-! ### The packet that answers a dispatch (R111) -/

/-- A reply appended to a readable accumulator goes out behind what was pending (R124, R125). -/
theorem finalizePacket_reply {s : State} {pend : List Byte} (hp : TxHolds s pend) (hroom : Room s 4)
    (type hash command : Byte) :
    ∃ t, finalizePacket (appendBytes s [4, type, hash, command]) = .ok (true, t) ∧
      t.trace = s.trace ++ [.txSend (packetBytes s.cfg.header (pend ++ [4, type, hash, command]))] ∧
      t.txCursor = hdrSize := by
  obtain ⟨hlow, _, hread⟩ := hp
  have hfits : s.txCursor + [4, type, hash, command].length ≤ s.cfg.txLimit := hroom
  have hpend := readTxRange_appendBytes hlow hread hfits
  have hlt : hdrSize < (appendBytes s [4, type, hash, command]).txCursor := by
    simp only [appendBytes_txCursor, List.length_cons]
    omega
  exact ⟨_, finalizePacket_sends hlt hfits hpend, rfl, rfl⟩

theorem answerAlive_of_room {s : State} (hroom : Room s 4) (command : Byte) :
    answerAlive s command = appendBytes s [4, s.cfg.typeAck, 0, command] :=
  congrArg Prod.snd (addRequestFrame_of_room hroom s.cfg.typeAck hashAlive command)

theorem answerUnknown_of_room {s : State} (hroom : Room s 4) (hash command : Byte) :
    answerUnknown s hash command = appendBytes s [4, s.cfg.typeNack, hash, command] :=
  congrArg Prod.snd (addRequestFrame_of_room hroom s.cfg.typeNack hash command)

/-- A handler that answers nothing leaves the state at its entry (R108, R156). -/
theorem callHandler_of_ret {s : State} {answers : List Script} (h : s.answers = .ret :: answers) (c : HandlerCall) :
    callHandler s c = enterHandler s c := by
  rw [callHandler, (handlerScript_eq (.inl h)).1]
  rfl

theorem handled_subframe {s : State} {f : Subframe} (hsmall : sfHdr + f.payload.length ≤ 255) :
    handled s (subframeBytes f) = routeSubframe s f := by
  have hlen : (subframeBytes f).length = f.payload.length + 3 + 1 := by
    rw [subframeBytes_length, sfHdr]
    omega
  have hparse := parsePayload_subframeBytes hsmall (f.payload.length + 3) []
  rw [List.append_nil] at hparse
  rw [handled, hlen, hparse]
  rfl

theorem handled_two_subframes {s : State} {f1 f2 : Subframe} (h1 : sfHdr + f1.payload.length ≤ 255)
    (h2 : sfHdr + f2.payload.length ≤ 255) :
    handled s (subframeBytes f1 ++ subframeBytes f2) = routeSubframe (routeSubframe s f1) f2 := by
  have hlen : (subframeBytes f1 ++ subframeBytes f2).length = f1.payload.length + f2.payload.length + 6 + 1 + 1 := by
    rw [List.length_append, subframeBytes_length, subframeBytes_length, sfHdr]
    omega
  have hparse := parsePayload_subframeBytes h2 (f1.payload.length + f2.payload.length + 6) []
  rw [List.append_nil] at hparse
  rw [handled, hlen, parsePayload_subframeBytes h1, hparse]
  rfl

/-- Settles O29: the one sub-frame is answered by the ACK, which FINALIZE sends. -/
theorem keepAlivePacketIsAcknowledged : Obligations.KeepAlivePacketIsAcknowledged := by
  intro s f pend halive hsmall _ hrx htx hroom
  obtain ⟨t, hf, htrace, _⟩ := finalizePacket_reply htx hroom s.cfg.typeAck 0 f.command
  have hhandled : handled s (subframeBytes f) = appendBytes s [4, s.cfg.typeAck, 0, f.command] := by
    rw [handled_subframe hsmall, routeSubframe_alive halive, answerAlive_of_room hroom]
  rw [← hhandled] at hf
  exact ⟨_, exec_dispatch_of_finalizePacket hrx hf, htrace⟩

/-- A sub-frame for a handler that answers nothing is that handler's call alone (R106, R108). -/
theorem routeSubframe_of_ret {s : State} {f : Subframe} {k : Nat} {e : Entry} {answers : List Script}
    (hanswers : s.answers = .ret :: answers) (hne : f.hash ≠ hashAlive) (hfound : findSlot s f.hash = some (k, e)) :
    routeSubframe s f = enterHandler s ⟨e.handler, e.context, f.type, f.command, f.payload⟩ :=
  (routeSubframe_known hne hfound).trans (callHandler_of_ret hanswers _)

/-- A call leaves the room and the accumulator as they were, so the NACK behind it is appended and sent (R107, R111). -/
theorem finalizePacket_unknown_after_call {s : State} {f : Subframe} {pend : List Byte} (hp : TxHolds s pend)
    (hroom : Room s 4) (hne : f.hash ≠ hashAlive) (hnone : findSlot s f.hash = none) (c : HandlerCall) :
    ∃ t, finalizePacket (routeSubframe (enterHandler s c) f) = .ok (true, t) ∧
      t.trace = s.trace ++ [.call c, .txSend (packetBytes s.cfg.header (pend ++ [4, s.cfg.typeNack, f.hash, f.command]))] ∧
      t.txCursor = hdrSize := by
  have hroom' : Room (enterHandler s c) 4 := hroom
  have hp' : TxHolds (enterHandler s c) pend := txHolds_congr (s := s) rfl rfl rfl hp
  obtain ⟨t, hf, htrace, hcursor⟩ := finalizePacket_reply hp' hroom' s.cfg.typeNack f.hash f.command
  have hnack : routeSubframe (enterHandler s c) f =
      appendBytes (enterHandler s c) [4, s.cfg.typeNack, f.hash, f.command] :=
    (routeSubframe_unknown (s := enterHandler s c) hne hnone).trans (answerUnknown_of_room hroom' f.hash f.command)
  refine ⟨t, hnack ▸ hf, ?_, hcursor⟩
  rw [htrace, enterHandler_trace, List.append_assoc]
  rfl

/-- Settles O28: the first sub-frame is the call, the second the NACK, which FINALIZE sends. -/
theorem twoSubframesAreMultiplexed : Obligations.TwoSubframesAreMultiplexed := by
  intro s f1 f2 e k pend answers hsmall1 hsmall2 _ hrx htx hroom hanswers hne1 hfirst hslot hne2 hunknown
  have hcall := routeSubframe_of_ret hanswers hne1 (findSlot_of_firstMatch hfirst hslot)
  obtain ⟨t, hf, htrace, hcursor⟩ :=
    finalizePacket_unknown_after_call htx hroom hne2 (findSlot_eq_none.mpr hunknown) ⟨_, _, _, _, _⟩
  rw [← hcall, ← handled_two_subframes hsmall1 hsmall2] at hf
  exact ⟨_, exec_dispatch_of_finalizePacket hrx hf, htrace, hcursor⟩

end Sys2Proof.Proofs

/-! The frame builder (R120 to R126): ADD with its two port forms, FINALIZE with its port form BUILD, TX_SEND, and the
statements on them: O32, O30, O31, O33, O34, O35, O36, O37. -/

namespace Sys2Proof.Proofs

open Sys2Proof.Machine Sys2Proof.Safety

/-! ### ADD, ADD_DATA and ADD_REQUEST (R120, R121, R122) -/

/-- ADD with these operands, or a port form of it: ADD_DATA where the type is Data, ADD_REQUEST where there is no payload. -/
def AddRow (s : State) (type hash command : Byte) (payload : List Byte) (n : Byte) (i : Instr) : Prop :=
  i = .add type hash command payload n ∨ (type = s.cfg.typeData ∧ i = .addData hash command payload n) ∨
    (payload = [] ∧ i = .addRequest type hash command)

theorem AddRow.exec_eq {s : State} {type hash command : Byte} {payload : List Byte} {n : Byte} {i : Instr}
    (h : AddRow s type hash command payload n i) (hlen : payload.length = n.toNat) :
    exec i s = finishBool (.ok (addFrame s type hash command payload n.toNat)) := by
  obtain rfl | ⟨rfl, rfl⟩ | ⟨rfl, rfl⟩ := h
  · exact if_pos hlen
  · exact if_pos hlen
  · rw [← hlen]
    rfl

theorem addFrame_of_no_room {s : State} {n : Nat} (hroom : ¬ Room s (4 + n)) (type hash command : Byte)
    (payload : List Byte) : addFrame s type hash command payload n = (false, s) :=
  if_pos (Nat.lt_of_not_le hroom)

theorem addFrame_of_room {s : State} {n : Nat} (hroom : Room s (4 + n)) (type hash command : Byte)
    (payload : List Byte) :
    addFrame s type hash command payload n =
      (true, { s with txBuf := s.txBuf.writeAll s.txCursor (addBytes s.cfg type hash command payload n),
                      txCursor := s.txCursor + (4 + n) }) :=
  if_neg (Nat.not_lt_of_le hroom)

/-! ### The bytes of ADD: the header, and behind it the payload of a Data sub-frame only -/

section Bytes

variable {cfg : Config} {type hash command : Byte} {payload : List Byte} {n : Nat}

theorem addBytes_of_data (h : type = cfg.typeData) (hlen : payload.length = n) :
    addBytes cfg type hash command payload n = [BitVec.ofNat 8 (4 + n), type, hash, command] ++ payload := by
  subst hlen
  rw [addBytes, if_pos h, List.take_length]
  rfl

theorem addBytes_of_not_data (h : type ≠ cfg.typeData) :
    addBytes cfg type hash command payload n = [BitVec.ofNat 8 (4 + n), type, hash, command] := by
  rw [addBytes, if_neg h]
  rfl

theorem addBytes_length_bounds (cfg : Config) (type hash command : Byte) (payload : List Byte) (n : Nat) :
    4 ≤ (addBytes cfg type hash command payload n).length ∧
      (addBytes cfg type hash command payload n).length ≤ 4 + n := by
  rw [addBytes, List.length_append]
  refine ⟨Nat.le_add_right .., Nat.add_le_add_left ?_ 4⟩
  split
  · exact List.length_take_le n payload
  · exact Nat.zero_le n

theorem read_addBytes_header (m : Memory) (a : Nat) {k : Nat} (hk : k < 4) :
    (m.writeAll a (addBytes cfg type hash command payload n)).read (a + k) =
      [BitVec.ofNat 8 (4 + n), type, hash, command][k]? := by
  obtain ⟨hfour, _⟩ := addBytes_length_bounds cfg type hash command payload n
  rw [read_writeAll_inside _ _ (Nat.lt_of_lt_of_le hk hfour), addBytes, List.getElem?_append_left hk]
  rfl

theorem read_addBytes_payload (h : type = cfg.typeData) (hlen : payload.length = n) (m : Memory) (a : Nat) {k : Nat}
    (hk : k < n) :
    (m.writeAll a (addBytes cfg type hash command payload n)).read (a + 4 + k) = payload[k]? := by
  rw [addBytes_of_data h hlen, Nat.add_assoc, read_writeAll_inside _ _ (by simp; omega),
    List.getElem?_append_right (by simp)]
  simp

/-- The gap ADD leaves behind the header of another type (R120 (d)). -/
theorem read_addBytes_gap (h : type ≠ cfg.typeData) (m : Memory) (a k : Nat) :
    (m.writeAll a (addBytes cfg type hash command payload n)).read (a + 4 + k) = m.read (a + 4 + k) := by
  rw [addBytes_of_not_data h]
  exact read_writeAll_outside _ (.inr (Nat.le_add_right ..))

theorem read_addBytes_outside (m : Memory) {a x : Nat} (hx : x < a ∨ a + (4 + n) ≤ x) :
    (m.writeAll a (addBytes cfg type hash command payload n)).read x = m.read x := by
  obtain ⟨_, hle⟩ := addBytes_length_bounds cfg type hash command payload n
  exact read_writeAll_outside _ (by omega)

end Bytes

/-- Whatever fits behind HDR_SIZE is at most what a length byte can count (R10, R28). -/
theorem toNat_ofNat_of_le_txLimit {cfg : Config} {length : Nat} (h : hdrSize + length ≤ cfg.txLimit) :
    (BitVec.ofNat 8 length).toNat = length := by
  obtain ⟨_, hmax⟩ := txLimit_bounds cfg
  rw [BitVec.toNat_ofNat]
  omega

theorem txHolds_appendBytes {s : State} {pend bytes : List Byte} (hp : TxHolds s pend)
    (hfits : s.txCursor + bytes.length ≤ s.cfg.txLimit) : TxHolds (appendBytes s bytes) (pend ++ bytes) := by
  obtain ⟨hlow, _, hread⟩ := hp
  exact ⟨Nat.le_trans hlow (Nat.le_add_right ..), hfits, readTxRange_appendBytes hlow hread hfits⟩

/-- Settles O32: the frame stored is the whole Data sub-frame, and reads back behind what was accumulated. -/
theorem accumulatorIsConcatenation : Obligations.AccumulatorIsConcatenation := by
  intro s hash command payload n pend hlen hp hroom
  have hrow : AddRow s s.cfg.typeData hash command payload n (.addData hash command payload n) := .inr (.inl ⟨rfl, rfl⟩)
  have hsize := subframeBytes_length ⟨s.cfg.typeData, hash, command, payload⟩
  have hfits : s.txCursor + (subframeBytes ⟨s.cfg.typeData, hash, command, payload⟩).length ≤ s.cfg.txLimit := by
    rw [hsize, hlen]
    exact hroom
  have hexec := hrow.exec_eq hlen
  rw [← hlen, addFrame_whole _ _ _ _ _ (.inl rfl), ← hsize, if_pos hfits] at hexec
  exact ⟨_, hexec, rfl, txHolds_congr (s := appendBytes s _) rfl rfl rfl (txHolds_appendBytes hp hfits)⟩

/-- Settles O30: the three rows are one ADD, which is refused or stores its bytes at the cursor. -/
theorem addStoresWhatFits : Obligations.AddStoresWhatFits := by
  intro s type hash command payload n i hlen hrow
  have hexec := AddRow.exec_eq hrow hlen
  refine ⟨fun hroom => ?_, fun hroom => ?_⟩
  · rw [addFrame_of_no_room hroom] at hexec
    exact hexec
  · rw [addFrame_of_room hroom] at hexec
    refine ⟨_, hexec, rfl, rfl, ⟨_, read_addBytes_header _ _ (k := 0) (by decide), fun hlow => ?_⟩,
      read_addBytes_header _ _ (k := 1) (by decide), read_addBytes_header _ _ (k := 2) (by decide),
      read_addBytes_header _ _ (k := 3) (by decide), fun hdata k hk => read_addBytes_payload hdata hlen _ _ hk,
      fun hother k _ => read_addBytes_gap hother _ _ k, fun a ha => read_addBytes_outside _ ha, rfl⟩
    exact toNat_ofNat_of_le_txLimit (Nat.le_trans (Nat.add_le_add_right hlow _) hroom)

/-- Settles O31: a sub-frame without a payload is its four header bytes. -/
theorem addRequestStoresFourBytes : Obligations.AddRequestStoresFourBytes := by
  intro s type hash command
  have hexec : exec (.addRequest type hash command) s = finishBool (.ok (addRequestFrame s type hash command)) := rfl
  refine ⟨rfl, fun hroom => ?_, fun hroom => ?_⟩
  · rw [addRequestFrame_of_room hroom] at hexec
    exact ⟨_, hexec, appended_appendBytes _ s _, rfl⟩
  · rw [addRequestFrame_of_no_room hroom] at hexec
    exact hexec

/-! ### FINALIZE and BUILD (R124, R126) -/

theorem exec_build_eq_finalize (s : State) : exec .build s = exec .finalize s := rfl

theorem exec_eq_finalize {i : Instr} (h : i ∈ [Instr.finalize, .build]) (s : State) : exec i s = exec .finalize s := by
  obtain rfl | rfl : i = .finalize ∨ i = .build := by simpa using h
  · rfl
  · exact exec_build_eq_finalize s

theorem exec_finalize_nothing {s : State} (h : s.txCursor ≤ hdrSize) :
    exec .finalize s = .next { s with result := .bool false } :=
  exec_finalize_of_ok (finalizePacket_nothing h)

theorem exec_finalize_sends {s : State} {pend : List Byte} (hlt : hdrSize < s.txCursor) (hp : TxHolds s pend) :
    exec .finalize s = .next (withResult (emit (sealPacket s (s.txCursor - hdrSize) (checksum pend))
      (.txSend (packetBytes s.cfg.header pend))) (.bool true)) := by
  obtain ⟨_, hle, hread⟩ := hp
  exact exec_finalize_of_ok (finalizePacket_sends hlt hle hread)

/-- A FINALIZE that returns true leaves the accumulator empty (R124). -/
theorem txCursor_of_exec_finalize_true {s t : State} (h : exec .finalize s = .next t) (htrue : t.result = .bool true) :
    t.txCursor = hdrSize := by
  obtain ⟨sent, u, hf, rfl⟩ := finishBool_eq_next.mp h
  obtain ⟨rfl, _⟩ | ⟨_, sum, packet, rfl⟩ := finalizePacket_cases hf
  · cases htrue
  · rfl

/-! ### What the sealed packet's buffer reads as -/

section Sealed

variable {s : State} {length : Nat} {sum : Byte}

theorem sealPacket_read_header (h : hdrSize < s.txCursor) :
    (sealPacket s length sum).txBuf.read 0 = some s.cfg.header := by
  have hne : 0 ≠ s.txCursor := Nat.ne_of_lt (Nat.zero_lt_of_lt h)
  rw [sealPacket_txBuf, Memory.read_write_other _ _ hne, Memory.read_write_other _ _ (by decide), Memory.read_write_same]

theorem sealPacket_read_length (h : hdrSize < s.txCursor) :
    (sealPacket s length sum).txBuf.read 1 = some (BitVec.ofNat 8 length) := by
  have hne : 1 ≠ s.txCursor := Nat.ne_of_lt (Nat.lt_of_succ_lt h)
  rw [sealPacket_txBuf, Memory.read_write_other _ _ hne, Memory.read_write_same]

theorem sealPacket_read_checksum : (sealPacket s length sum).txBuf.read s.txCursor = some sum :=
  Memory.read_write_same ..

theorem sealPacket_read_other {a : Nat} (h0 : a ≠ 0) (h1 : a ≠ 1) (hc : a ≠ s.txCursor) :
    (sealPacket s length sum).txBuf.read a = s.txBuf.read a := by
  rw [sealPacket_txBuf, Memory.read_write_other _ _ hc, Memory.read_write_other _ _ h1, Memory.read_write_other _ _ h0]

end Sealed

/-- Settles O33: a cursor not beyond HDR_SIZE has nothing behind it. -/
theorem finalizeWithNothingToSend : Obligations.FinalizeWithNothingToSend := fun s hempty _ hi =>
  (exec_eq_finalize hi s).trans (exec_finalize_nothing hempty)

/-- Settles O34: the length byte counts all of the accumulator, since TX_LIMIT leaves it at most 255 bytes. -/
theorem finalizeSealsAndSends : Obligations.FinalizeSealsAndSends := by
  intro s pend hlt hp i hi
  have hexec := (exec_eq_finalize hi s).trans (exec_finalize_sends hlt hp)
  obtain ⟨hlow, hle, _⟩ := hp
  refine ⟨_, hexec, sealPacket_read_header hlt, ⟨_, sealPacket_read_length hlt, ?_⟩, sealPacket_read_checksum,
    fun a h0 h1 hc => sealPacket_read_other h0 h1 hc, rfl⟩
  exact toNat_ofNat_of_le_txLimit (by rwa [Nat.add_sub_cancel' hlow])

/-- Settles O35: an accumulator whose cursor is at HDR_SIZE has nothing to send; one beyond it is sealed and sent. -/
theorem buildIsFinalize : Obligations.BuildIsFinalize := by
  refine fun s => ⟨exec_build_eq_finalize s, fun pend hp => ?_⟩
  rw [exec_build_eq_finalize]
  rcases Nat.lt_or_ge hdrSize s.txCursor with hlt | hge
  · exact ⟨_, exec_finalize_sends hlt hp, by rw [decide_eq_true hlt]; rfl, rfl⟩
  · obtain ⟨hlow, _⟩ := hp
    exact ⟨_, exec_finalize_nothing hge, by rw [decide_eq_false (Nat.not_lt_of_le hge)], Nat.le_antisymm hge hlow⟩

/-- Settles O36: the first BUILD leaves the cursor at HDR_SIZE. -/
theorem secondBuildSendsNothing : Obligations.SecondBuildSendsNothing := by
  intro s t hbuild htrue
  have hcursor := txCursor_of_exec_finalize_true ((exec_build_eq_finalize s).symm.trans hbuild) htrue
  exact (exec_build_eq_finalize t).trans (exec_finalize_nothing (Nat.le_of_eq hcursor))

/-! ### TX_SEND (R125) -/

/-- Settles O37: the event carries the range read. -/
theorem txSendCarriesThePacket : Obligations.TxSendCarriesThePacket := by
  intro s bytes hread
  change execTxSend s = _
  rw [execTxSend, sendPacket_eq_ok.mpr ⟨bytes, hread, rfl⟩]
  rfl

end Sys2Proof.Proofs

/-! Link control (R135, R136, R137): RESET as the fresh state of the same parameters, DEC_RESET, RUN_DISPATCH, and the
statements on them: O40, O38, O39. -/

namespace Sys2Proof.Proofs

open Sys2Proof.Machine Sys2Proof.Safety

/-! ### RUN_DISPATCH (R137) -/

theorem exec_runDispatch_of_not_ready {s : State} (hready : s.pktReady = false) :
    exec .runDispatch s = .next (withResult s (.bool false)) :=
  if_neg (by rw [hready]; exact Bool.false_ne_true)

/-- Settles O40: with a packet posted, both rows run the one dispatch that the readable payload and accumulator let complete. -/
theorem runDispatchConsumesThePacket : Obligations.RunDispatchConsumesThePacket := by
  refine fun s => ⟨exec_runDispatch_of_not_ready, fun hready payload pend hrx htx => ?_⟩
  obtain ⟨u, hd⟩ := dispatchPacket_completes hrx htx
  exact ⟨withResult u .nothing, exec_dispatch_of_ok (le_rxCapacity_of_rxHolds hrx) hd, exec_runDispatch_of_ok hready hd⟩

/-! ### RESET (R135, R170) -/

/-- RESET answers the fresh state of the same parameters, with what the environment has queued (log entry 7). -/
theorem exec_reset (s : State) :
    exec .reset s =
      .next { State.fresh s.cfg with pending := s.pending, answers := s.answers, calls := s.calls } := rfl

/-- RX_CAP is stored whole, since it is in the range of a `u8` (R9, R25). -/
theorem fresh_rxCap_toNat (cfg : Config) : (State.fresh cfg).rxCap.toNat = cfg.rxCapacity := by
  have hcap := rxCapacity_le cfg
  rw [State.fresh, BitVec.toNat_ofNat]
  exact Nat.mod_eq_of_lt (by omega)

theorem fresh_txBuf_read_zero (cfg : Config) : (State.fresh cfg).txBuf.read 0 = some cfg.header := rfl

theorem fresh_txBuf_read_of_ne_zero (cfg : Config) {a : Nat} (ha : a ≠ 0) : (State.fresh cfg).txBuf.read a = none :=
  if_neg ha

theorem fresh_table_empty {cfg : Config} {slot : Slot} (h : slot ∈ (State.fresh cfg).table) : slot = none :=
  List.eq_of_mem_replicate h

/-- Settles O38: each clause is one of the fresh state, whose buffers hold the byte HEADER alone. -/
theorem resetLeavesTheResetValues : Obligations.ResetLeavesTheResetValues := fun s =>
  ⟨_, exec_reset s, rfl, rfl, rfl, rfl, fresh_rxCap_toNat s.cfg, rfl, rfl, rfl, fresh_txBuf_read_zero s.cfg,
    fun _ ha => fresh_txBuf_read_of_ne_zero s.cfg ha, fun _ => rfl, List.length_replicate, fun _ => fresh_table_empty,
    rfl, rfl, rfl, rfl, rfl, rfl⟩

/-! ### DEC_RESET (R136) -/

/-- Settles O39: the operation is admitted, and its update is the statement's. -/
theorem decoderResetRearmsOnly : Obligations.DecoderResetRearmsOnly := fun s hready => by
  change execDecReset s = _
  rw [execDecReset, hready]
  rfl

end Sys2Proof.Proofs

/-! The error statuses (R153): which arm of the decoder answers one, and that it then only re-arms the decoder; the statement
on them: O11. -/

namespace Sys2Proof.Proofs

open Sys2Proof.Machine

/-- The three error statuses of R68. -/
def IsErrorStatus (st : Status) : Prop := st = .errorHeader ∨ st = .errorLength ∨ st = .errorChecksum

theorem not_isErrorStatus_pending : ¬ IsErrorStatus .pending := by simp [IsErrorStatus]

theorem not_isErrorStatus_done : ¬ IsErrorStatus .done := by simp [IsErrorStatus]

/-- A rejected header byte changes nothing, and the decoder is in AwaitHeader already (R86). -/
theorem headerArm_rearms_of_error {s t : State} {b : Byte} {st : Status} (hstate : s.decState = .awaitHeader)
    (h : headerArm s b = (st, t)) (herr : IsErrorStatus st) : t = { s with decState := .awaitHeader } := by
  unfold headerArm at h
  split at h
  · cases h
    exact absurd herr not_isErrorStatus_pending
  · cases h
    rw [← hstate]

/-- A rejected length is not stored (R87). -/
theorem lengthArm_rearms_of_error {s t : State} {b : Byte} {st : Status} (h : lengthArm s b = (st, t))
    (herr : IsErrorStatus st) : t = { s with decState := .awaitHeader } := by
  unfold lengthArm at h
  split at h
  · cases h
    rfl
  · cases h
    exact absurd herr not_isErrorStatus_pending

theorem payloadArm_status {s t : State} {b : Byte} {st : Status} (h : payloadArm s b = .ok (st, t)) : st = .pending := by
  unfold payloadArm at h
  split at h
  · cases h
  · cases h
    rfl

theorem checkMatchArm_status {s t : State} {st : Status} (h : checkMatchArm s = .ok (st, t)) : st = .done := by
  unfold checkMatchArm at h
  split at h
  · cases h
  · cases h
    rfl

/-- DEC_CHECK answers an error only of a wrong checksum, before anything is dispatched or posted (R89, R90). -/
theorem checkArm_rearms_of_error {s t : State} {b : Byte} {st : Status} (h : checkArm s b = .ok (st, t))
    (herr : IsErrorStatus st) : t = { s with decState := .awaitHeader } := by
  unfold checkArm at h
  split at h
  · rw [checkMatchArm_status h] at herr
    exact absurd herr not_isErrorStatus_done
  · cases h
    rfl

/-- Whichever arm takes the byte, an error status comes with the decoder re-armed and nothing else changed (R85, R153). -/
theorem decodeArm_rearms_of_error {s t : State} {b : Byte} {st : Status} (h : decodeArm s b = .ok (st, t))
    (herr : IsErrorStatus st) : t = { s with decState := .awaitHeader } := by
  unfold decodeArm at h
  split at h
  · next hstate => exact headerArm_rearms_of_error hstate (Except.ok.inj h) herr
  · exact lengthArm_rearms_of_error (Except.ok.inj h) herr
  · split at h
    · rw [payloadArm_status h] at herr
      exact absurd herr not_isErrorStatus_pending
    · exact checkArm_rearms_of_error h herr

/-- Settles O11: DECODE_BYTE records the status of the arm that took the byte, and that arm's error re-arms only. -/
theorem decodeErrorsAreLocal : Obligations.DecodeErrorsAreLocal := by
  intro s t b h herr
  obtain ⟨_, st, u, harm, rfl⟩ := deliverByte_eq_next.mp h
  have hst : IsErrorStatus st := by simpa only [IsErrorStatus, withResult_result, Result.status.injEq] using herr
  rw [decodeArm_rearms_of_error harm hst]
  rfl

end Sys2Proof.Proofs

/-! Refusals while a packet is posted (R51, R85, R176 (a)): the decoder takes neither a byte nor DEC_RESET; the statement on
them: O10. -/

namespace Sys2Proof.Proofs

open Sys2Proof.Machine

theorem deliverByte_of_ready {s : State} (hready : s.pktReady = true) (b : Byte) :
    deliverByte s b = .refused .packetPending := if_pos hready

theorem exec_decReset_of_ready {s : State} (hready : s.pktReady = true) :
    exec .decReset s = .refused .packetPending := if_pos hready

/-- Settles O10: DECODE_BYTE and the packet-byte rows each deliver a byte, PKT_HEADER the sentinel; DEC_RESET has its own
guard. -/
theorem postedPacketRefusesDecoding : Obligations.PostedPacketRefusesDecoding := by
  intro s b hready i hi
  simp only [List.mem_cons, List.not_mem_nil, or_false] at hi
  obtain rfl | rfl | rfl | rfl | rfl | rfl := hi
  · exact deliverByte_of_ready hready b
  · exact exec_decReset_of_ready hready
  · exact deliverByte_of_ready hready s.cfg.header
  · exact deliverByte_of_ready hready b
  · exact deliverByte_of_ready hready b
  · exact deliverByte_of_ready hready b

end Sys2Proof.Proofs
